-- ==== Sys2Proof/Config.lean ====
section
/-! DEFINITION. The constants of the part: its sizes, its times and the tops of its counters, each with the rule
that gives it. The free values stand in Sys2Proof/Machine/Layout.lean. -/

namespace Sys2Proof.Config

/-- Sample period in ms (R9). -/
abbrev samplePeriodMs : Nat := 250
/-- Claim refresh period in ms (R11). -/
abbrev refreshMs : Nat := 30000
/-- A run-hour in ms of run time (R12). -/
abbrev runHourMs : Nat := 3600000
/-- The clear hold (R36). -/
abbrev clearHoldMs : Nat := 2000
/-- The PENDING hold (R153). -/
abbrev pendingHoldMs : Nat := 5000
/-- The span of MUTE (R112). -/
abbrev muteMs : Nat := 1000
/-- The age at which a claim-view entry is removed (R143). -/
abbrev claimAgeMs : Nat := 100000
/-- Filter time of eyes and class lines (R2). -/
abbrev fastFilterMs : Nat := 2
/-- Filter time of MOTOR_RUN, MAINT, CONFIRM, DECLINE (R2) and RESET (R14). -/
abbrev slowFilterMs : Nat := 20
/-- Period of the FLASH and FAULT patterns of the lamp (R15). -/
abbrev lampPeriodMs : Nat := 1000

/-- Assignable lines (R1). -/
abbrev lines : Nat := 24
/-- Slots of the component table (R52) and positions of the order ring (R164). -/
abbrev slots : Nat := 32
/-- Places of the inbound queue (R18). -/
abbrev inboundPlaces : Nat := 16
/-- Places of the in-section list (R26). -/
abbrev piecePlaces : Nat := 8
/-- Places of the transmit queue (R121). -/
abbrev queuePlaces : Nat := 8
/-- Places of the claim view (R138). -/
abbrev viewPlaces : Nat := 24
/-- Places of the taken set (R150). -/
abbrev takenPlaces : Nat := 8

/-- Top of the 16-bit counters (R8, R38, R128). -/
abbrev countTop : Nat := 65535
/-- Top of run-hours (R12). -/
abbrev runHoursTop : Nat := 16777215
/-- Top of the hour delta (R56, R81). -/
abbrev deltaTop : Nat := 2 ^ 48 - 1
/-- Ticks in one reference passage (R52, section 4.2). -/
abbrev ticksPerPassage : Nat := 268435456
/-- Values of the tag sequence (R25). -/
abbrev tagSequences : Nat := 1024
/-- Fault count at which MUTE begins (R112). -/
abbrev faultTop : Nat := 32
/-- Bit times of silence after which a node may join (R100). -/
abbrev joinSilence : Nat := 9
/-- Smallest expected count that gives a slip sample (R43). -/
abbrev sampleFloor : Nat := 32
/-- Urgency from which a component is due and a node claims (R87, R134). -/
abbrev dueUrgency : Nat := 128
/-- H of a component with no forecast (R85). -/
abbrev hoursTop : Nat := 65535
/-- Longest payload (R101). -/
abbrev payloadTop : Nat := 12

/-- Family code of the IDENTITY report (section 7.4). -/
abbrev familyCode : Nat := 0x3C
/-- Revision code of the IDENTITY report (section 7.4). -/
abbrev revision : Nat := 0x01

end Sys2Proof.Config
end

