-- ==== Sys2Proof/Word.lean ====
section
/-! DEFINITION. The wire-width values of the W32: bytes of a payload, bus addresses, tags, piece classes and exits
(spec/06_the_line_bus.md R101, spec/02_piece_tracking.md R18). Counts, ages and accounts are `Nat`. -/

namespace Sys2Proof

/-- One byte of a notice's payload (R101). -/
abbrev Byte := BitVec 8

/-- A bus address, 6 bits (R13, R101). -/
abbrev Addr := BitVec 6

/-- The 16-bit tag of a piece (R18, R25). The line label has the same width (R179). -/
abbrev Tag := BitVec 16

/-- A thickness or mass class, 0 to 7 (R7, R18). -/
abbrev PieceClass := BitVec 3

/-- The way a piece left the section (R4). -/
inductive ExitPath where
  | straight
  | divert
  deriving DecidableEq, Repr

end Sys2Proof
end

