-- ==== Sys2Proof/Machine/Records.lean ====
section
/-! DEFINITION. The records of the node: configuration, component, order and node records (R52, R53, R163, R174),
the store that keeps them, and the notices of the line bus (section 7.1). Plain data. -/

namespace Sys2Proof.Machine

open Sys2Proof

/-- The function of an assignable line (R1). CLASS0 to CLASS5 are `classLine 0` to `classLine 5`. -/
inductive LineFn where
  | masked
  | entryEye
  | straightEye
  | divertEye
  | encoder
  | tach
  | motorRun
  | maint
  | confirm
  | decline
  | classLine (i : Fin 6)
  deriving DecidableEq, Repr

/-- What a component is (R52). -/
inductive Kind where
  | driveRoller
  | pinchRoller
  | belt
  deriving DecidableEq, Repr

/-- Which pieces a component touches (R52). -/
inductive Path where
  | common
  | straight
  | divert
  deriving DecidableEq, Repr

/-- Where the classes of a piece come from (R24). -/
inductive ClassSource where
  | upstream
  | classLines
  | default
  deriving DecidableEq, Repr

/-- The wear class of a component (R71). -/
inductive Band where
  | normal
  | watch
  | due
  | overlife
  deriving DecidableEq, Repr

/-- The status of an order record (R163). -/
inductive OrderStatus where
  | empty
  | opened
  | done
  | declined
  deriving DecidableEq, Repr

/-- The action of an order; it has no other value than REPLACE (R163). -/
inductive OrderAction where
  | replace
  deriving DecidableEq, Repr

/-- The cause of a jam (R34). -/
inductive JamCause where
  | transit
  | blocked
  | crowded
  deriving DecidableEq, Repr

/-- Static fields of a component record (R52), kept in the configuration record. -/
structure SlotConfig where
  present : Bool
  kind : Kind
  path : Path
  life : Nat
  weight : Nat
  tach : Option Nat
  ratio : Nat
  distance : Nat
  start : Nat
  deriving DecidableEq, Repr

/-- A slot of the blank configuration (R178). -/
def SlotConfig.blank : SlotConfig :=
  { present := false, kind := .driveRoller, path := .common, life := 1, weight := 0, tach := none,
    ratio := 1, distance := 0, start := 0 }

/-- An upstream entry (R19). -/
structure UpstreamEntry where
  inUse : Bool
  address : Addr
  exit : ExitPath
  deriving DecidableEq, Repr

/-- The configuration record (R174), and the staging area laid out like it (R178). -/
structure Configuration where
  k : Nat
  hz : Nat
  tWatch : Nat
  tHold : Nat
  g : Nat
  defThickness : PieceClass
  defMass : PieceClass
  classSource : ClassSource
  announceDivert : Bool
  j : Nat
  tTransit : Nat
  tBlock : Nat
  tHand : Nat
  thicknessFactors : List Nat
  massFactors : List Nat
  upstream : List UpstreamEntry
  functions : List LineFn
  slots : List SlotConfig
  label : Tag
  labelCommitted : Bool
  deriving DecidableEq, Repr

/-- The blank configuration (R178), every numeric line parameter at the lowest value of its range. An upstream entry
that is out of use keeps address 1 and exit STRAIGHT here (notes/assumptions/7.md). -/
def Configuration.blank : Configuration :=
  { k := 1, hz := 1, tWatch := 1, tHold := 0, g := 0, defThickness := 0, defMass := 0, classSource := .default,
    announceDivert := false, j := 0, tTransit := 50, tBlock := 20, tHand := 100,
    thicknessFactors := List.replicate 8 256, massFactors := List.replicate 8 256,
    upstream := List.replicate 2 { inUse := false, address := 1, exit := .straight },
    functions := List.replicate Config.lines .masked,
    slots := List.replicate Config.slots SlotConfig.blank,
    label := 0, labelCommitted := false }

/-- The stored fields of a component (R53): the component dynamic record. -/
structure DynRecord where
  account : Nat
  slip : Nat
  rate : Nat
  rateValid : Bool
  hourDelta : Nat
  serviceCount : Nat
  lost : Bool
  deriving DecidableEq, Repr

/-- The zeroed dynamic record (R54, R174, R181). -/
def DynRecord.zero : DynRecord :=
  { account := 0, slip := 0, rate := 0, rateValid := false, hourDelta := 0, serviceCount := 0, lost := false }

/-- A component record: the stored fields, the derived ones (R53) and the changed mark (R175). The static fields
stand in the configuration in force. -/
structure Component where
  dyn : DynRecord
  wear : Nat
  hours : Nat
  urgency : Nat
  band : Band
  openOrder : Bool
  marked : Bool
  deriving DecidableEq, Repr

/-- A slot with every dynamic field at its zero value (R54). -/
def Component.zero : Component :=
  { dyn := DynRecord.zero, wear := 0, hours := 0, urgency := 0, band := .normal, openOrder := false,
    marked := false }

/-- An order record (R163). -/
structure OrderRecord where
  slot : Nat
  action : OrderAction
  wearAtIssue : Nat
  urgencyAtIssue : Nat
  windowAtIssue : Nat
  status : OrderStatus
  windowAtClose : Nat
  deriving DecidableEq, Repr

/-- An EMPTY order record, all zero (R163, R174). -/
def OrderRecord.empty : OrderRecord :=
  { slot := 0, action := .replace, wearAtIssue := 0, urgencyAtIssue := 0, windowAtIssue := 0, status := .empty,
    windowAtClose := 0 }

/-- The node record (R174). -/
structure NodeRecord where
  runHours : Nat
  runMs : Nat
  windowCount : Nat
  head : Nat
  tail : Nat
  commissionCount : Nat
  label : Tag
  labelCommitted : Bool
  deriving DecidableEq, Repr

/-- The node record of a new part, all zero and no label (R174). -/
def NodeRecord.zero : NodeRecord :=
  { runHours := 0, runMs := 0, windowCount := 0, head := 0, tail := 0, commissionCount := 0, label := 0,
    labelCommitted := false }

/-- A record of the store (R174): never written, or its contents followed by a check word. -/
inductive Stored (α : Type) where
  | absent
  | written (contents : α) (check : BitVec 16)
  deriving DecidableEq, Repr

/-- A record as it is read at a start (R174): absent, good with its contents, or bad (its check word does not match
its contents). -/
inductive Found (α : Type) where
  | absent
  | good (contents : α)
  | bad
  deriving DecidableEq, Repr

/-- The 66 records of the store (R174). -/
structure Store where
  config : Stored Configuration
  components : List (Stored DynRecord)
  orders : List (Stored OrderRecord)
  node : Stored NodeRecord
  deriving DecidableEq, Repr

/-- The 66 records as they are read at a start (R174, R176). -/
structure FoundStore where
  config : Found Configuration
  components : List (Found DynRecord)
  orders : List (Found OrderRecord)
  node : Found NodeRecord
  deriving DecidableEq, Repr

/-- The store of a new part: nothing ever written (R174). -/
def Store.new : Store :=
  { config := .absent, components := List.replicate Config.slots .absent,
    orders := List.replicate Config.slots .absent, node := .absent }

/-- One record write (R174, R181). -/
inductive StoreWrite where
  | config (contents : Configuration)
  | component (slot : Nat) (contents : DynRecord)
  | order (position : Nat) (contents : OrderRecord)
  | node (contents : NodeRecord)
  deriving DecidableEq, Repr

/-- Damage to one written record: the contents and the check word it has when it is next read (R174). -/
structure StoreDamage where
  record : StoreWrite
  check : BitVec 16
  deriving DecidableEq, Repr

/-- The name of a record that a checkpoint writes (R175): the dynamic record of a slot, the order record of a position,
the node record. -/
inductive RecordName where
  | component (slot : Nat)
  | order (position : Nat)
  | node
  deriving DecidableEq, Repr

/-- Values the Forecast Unit keeps for the node, pending or announced (R89, R90). -/
structure NodeForecast where
  urgency : Nat
  dueCount : Nat
  earliestHours : Nat
  deriving DecidableEq, Repr

/-- The values of the node's own TAKEN (R118, R155). -/
structure TakenValues where
  urgency : Nat
  dueCount : Nat
  windowCount : Nat
  deriving DecidableEq, Repr

/-- The kinds of QUERY and REPORT (section 7.4). -/
inductive QueryKind where
  | identity
  | sectionInfo
  | counts
  | component
  | order
  | list
  | commission
  deriving DecidableEq, Repr

/-- What a notice says: the kinds a node sends (section 7.1). A REPORT holds its destination and its bytes. -/
inductive NoticeBody where
  | jam (cause : JamCause) (cleared : Nat) (oldest : Tag)
  | passage (tag : Tag) (thickness mass : PieceClass) (exit : ExitPath) (phantom : Bool)
  | taken (values : TakenValues)
  | claim (values : NodeForecast)
  | withdraw
  | alert (slot : Nat) (band : Band) (wear hours : Nat)
  | order (index slot : Nat) (outcome : OrderStatus) (windowCount serviceCount : Nat)
  | report (querier : Addr) (bytes : List Byte)
  deriving DecidableEq, Repr

/-- A notice as its block hands it to the Notice Queue (R117): the source is the node's own address. -/
structure Notice where
  priority : Nat
  body : NoticeBody
  deriving DecidableEq, Repr

end Sys2Proof.Machine
end

