-- ==== Sys2Proof/Syntax.lean ====
section
/-! DEFINITION. The commands of the W32: one constructor for each row of spec/opcode_table.json, in the table's
order. The table gives no operands, so each constructor carries what its rule says the event brings with it
(notes/assumptions/5.md). -/

namespace Sys2Proof

open Sys2Proof.Machine

/-- The photo-eyes (R1). -/
inductive Eye where
  | entry
  | straight
  | divert
  deriving DecidableEq, Repr

/-- The strap pins as read at a start (R13). -/
structure Straps where
  addr : Addr
  rate : BitVec 2
  commission : Bool
  deriving DecidableEq, Repr

/-- Straps all low, before the first start (notes/assumptions/7.md). -/
def Straps.low : Straps := { addr := 0, rate := 0, commission := false }

/-- The commands of the node. -/
inductive Instr where
  /-- POWER_ON (R176): power becomes good, with the straps and the raw RESET level as first sampled. -/
  | powerOn (straps : Straps) (resetHigh : Bool)
  /-- RESET_FALL (R14). -/
  | resetFall
  /-- RESET_RISE (R14), with the straps read at this start. -/
  | resetRise (straps : Straps)
  /-- START_COMPLETE (R176), with the damage that written records have taken before they are read (R174) and the raw
  levels of the 24 lines as first sampled on entry to OPERATING (R3): bit i is line i. -/
  | startComplete (damage : List StoreDamage) (levels : BitVec 24)
  /-- PULSE_COUNTED (R8) on a line. -/
  | pulseCounted (line : Nat)
  /-- ARRIVAL (R23), with the class latch (R7): bit i is the filtered level of CLASS i. -/
  | arrival (latch : BitVec 6)
  /-- DEPARTURE (R28) at an exit eye. -/
  | departure (exit : ExitPath)
  /-- EYE_CLEAR (R33): the falling edge of an eye. -/
  | eyeClear (eye : Eye)
  /-- MOTOR_START (R5). -/
  | motorStart
  /-- MOTOR_STOP (R5). -/
  | motorStop
  /-- MAINT_RISE (R154). -/
  | maintRise
  /-- MAINT_FALL (R160). -/
  | maintFall
  /-- CONFIRM (R167): a press. -/
  | confirm
  /-- DECLINE (R168): a press. -/
  | decline
  /-- SAMPLE_PERIOD_END (R10). -/
  | samplePeriodEnd
  /-- CHECKPOINT (R175). -/
  | checkpoint
  /-- CLAIM_REFRESH (R11). -/
  | claimRefresh
  /-- RUN_HOUR_BOUNDARY (R84). -/
  | runHourBoundary
  /-- TRANSIT_JAM (R32). -/
  | transitJam
  /-- BLOCKED_JAM (R33). -/
  | blockedJam
  /-- CLEAR_HOLD_COMPLETE (R36). -/
  | clearHoldComplete
  /-- PIECE_CREDIT (R61): the request of R60. -/
  | pieceCredit (thickness mass : PieceClass) (exit : ExitPath) (phantom : Bool)
  /-- DISTANCE_CREDIT (R65) of an encoder count E. -/
  | distanceCredit (count : Nat)
  /-- START_SURCHARGE (R67). -/
  | startSurcharge
  /-- JAM_SURCHARGE (R68). -/
  | jamSurcharge
  /-- REPLACE (R74) of a slot. -/
  | replace (slot : Nat)
  /-- PENDING_HOLD_EXPIRY (R153). -/
  | pendingHoldExpiry
  /-- CLAIM_ENTRY_AGE_OUT (R143) of the entry of an address. -/
  | claimEntryAgeOut (addr : Addr)
  /-- MUTE_END (R112). -/
  | muteEnd
  /-- BUS_IDLE (R99). -/
  | busIdle
  /-- FRAME_START (R100). -/
  | frameStart
  /-- FRAME_JOIN (R100), with the silence before the lead pulse in bit times. -/
  | frameJoin (silence : Nat)
  /-- ARBITRATION_LOST (R103) in a cell of the header. -/
  | arbitrationLost (cell : Nat)
  /-- FRAME_ABORT (R104) in a cell: the level read differs from the one sent. -/
  | frameAbort (cell : Nat)
  /-- FRAME_COMPLETE (R109), witnessed or not. -/
  | frameComplete (witnessed : Bool)
  /-- FRAME_RECEIVED (R106): the cells read from the lead cell on, true for 1 (recessive), up to the end of the
  check word or to the cell that had no leading pulse. -/
  | frameReceived (cells : List Bool)
  /-- PASSAGE_RECEIVED (R19). -/
  | passageReceived (source : Addr) (tag : Tag) (thickness mass : PieceClass) (exit : ExitPath) (phantom : Bool)
  /-- JAM_RECEIVED (R22). -/
  | jamReceived (source : Addr)
  /-- TAKEN_HEARD (R152). -/
  | takenHeard (source : Addr)
  /-- CLAIM_RECEIVED (R140). -/
  | claimReceived (source : Addr) (urgency due : Byte) (hours : BitVec 16)
  /-- WITHDRAW_RECEIVED (R142). -/
  | withdrawReceived (source : Addr)
  /-- QUERY_IDENTITY (R131). -/
  | queryIdentity (querier : Addr) (arg : BitVec 5)
  /-- QUERY_SECTION (R131). -/
  | querySection (querier : Addr) (arg : BitVec 5)
  /-- QUERY_COUNTS (R132). -/
  | queryCounts (querier : Addr) (arg : BitVec 5)
  /-- QUERY_COMPONENT (R132). -/
  | queryComponent (querier : Addr) (arg : BitVec 5)
  /-- QUERY_ORDER (R133). -/
  | queryOrder (querier : Addr) (arg : BitVec 5)
  /-- QUERY_LIST (R133). -/
  | queryList (querier : Addr) (arg : BitVec 5)
  /-- QUERY_COMMISSION (R133). -/
  | queryCommission (querier : Addr) (arg : BitVec 5)
  /-- LINE_A (R178), fields in the widths of the CONFIG table. -/
  | lineA (k : Byte) (hz tWatch tHold : BitVec 16)
  /-- LINE_B (R178). -/
  | lineB (g thickness mass classSource announceDivert j : Byte)
  /-- LINE_C (R178). -/
  | lineC (tTransit tBlock tHand : BitVec 16)
  /-- FACTORS (R178): the table selector and the eight packed 10-bit factors, index 0 most significant. -/
  | factors (table : Byte) (packed : BitVec 80)
  /-- UPSTREAM (R178). -/
  | upstream (entry inUse address exit : Byte)
  /-- INPUT (R178). -/
  | input (line function : Byte)
  /-- SLOT (R178). -/
  | slot (slot kind path : Byte) (life : BitVec 32) (weight tach : Byte)
  /-- SLOT_B (R178). -/
  | slotB (slot : Byte) (ratio distance start : BitVec 16)
  /-- CLEAR (R178). -/
  | clear (slot : Byte)
  /-- LABEL (R179). -/
  | label (value : Tag)
  /-- COMMIT (R180). -/
  | commit
  /-- COMMIT_WRITES_DONE (R181). -/
  | commitWritesDone
  /-- POWER_LOSS (R110), with how many record writes of a COMMIT in progress had begun (R174, R181). -/
  | powerLoss (begun : Nat)
  /-- BUS_BUSY (R99). -/
  | busBusy
  deriving DecidableEq, Repr

end Sys2Proof
end

