-- ==== Sys2Proof/Decode.lean ====
section
/-! DEFINITION. The decoder of the opcode table's words. The table gives no row any bits ("fields": [] and no match
or mask in any row), so no word spells a command. The words of the line bus (frames, payloads) are decoded in
Sys2Proof/Machine/Operands.lean. -/

namespace Sys2Proof

/-- The command a table word of `nbits` bits spells: none, for every word. -/
def decodeTableWord (_nbits _w : Nat) : Option Instr := none

end Sys2Proof
end

