-- ==== Sys2Proof/Machine/Layout.lean ====
section
/-! DEFINITION. The free values: nothing is known of them. The manual says that a check word is computed over a record's
contents (R174) and lays out no bytes for them (notes/assumptions/8.md); and it leaves open which of two effects of a
CONFIRM comes first (notes/assumptions/36.md). -/

namespace Sys2Proof.Config

open Sys2Proof.Machine

/-- The bytes of the configuration record. -/
opaque configurationBytes : Configuration → List Byte

/-- The bytes of a component dynamic record. -/
opaque componentBytes : DynRecord → List Byte

/-- The bytes of an order record. -/
opaque orderBytes : OrderRecord → List Byte

/-- The bytes of the node record. -/
opaque nodeBytes : NodeRecord → List Byte

/-- Where the manual leaves the order of two effects open, whether the REPLACE of a CONFIRM comes before its ORDER
(R119, R167): one free answer for each time it is asked (notes/assumptions/36.md). -/
opaque replaceFirst : Nat → Bool

end Sys2Proof.Config
end

