-- ==== Sys2Proof/Machine/State.lean ====
section
/-! DEFINITION. The state of the W32, block by block as the manual divides it, and the state before power becomes
good (`State.reset`). Every field is listed with its rule and its reset value in INVENTORY.md. -/

namespace Sys2Proof.Machine

open Sys2Proof

/-- No fault stops this block: every fault the spec describes (line faults, clashes, bad records, jams) is a change
of state. Nothing raises a fault, so the type has no constructor; safe. -/
inductive Fault where
  deriving DecidableEq, Repr

/-- Why a command is refused. -/
inductive Refusal where
  /-- The instruction has no meaning in the model. No arm of exec raises it: every command has its meaning; safe. -/
  | notModelled (mnemonic : String)
  deriving DecidableEq, Repr

/-- The state of the node (R176). -/
inductive NodeState where
  | starting
  | unconfigured
  | commissioning
  | operating
  deriving DecidableEq, Repr

/-- The state of the section (R17). -/
inductive SectionState where
  | running
  | stopped
  | jammed
  deriving DecidableEq, Repr

/-- The window state (R149). -/
inductive WindowState where
  | closed
  | pending
  | contending
  | servicing
  | deferred
  | standby
  deriving DecidableEq, Repr

/-- The standing among claimants (R145). -/
inductive Standing where
  | none
  | granted
  | waiting
  deriving DecidableEq, Repr

/-- The patterns of the SERVICE lamp (R15). -/
inductive LampPattern where
  | off
  | on
  | flash
  | fault
  deriving DecidableEq, Repr

/-- The controller's view of the bus (R99). -/
inductive BusView where
  | idle
  | busy
  deriving DecidableEq, Repr

/-- What the controller is doing (R116); a notice being sent is in transmission (R100, R122). -/
inductive Activity where
  | waiting
  | sending (notice : Notice)
  | receiving
  | awaitingIdle
  deriving DecidableEq, Repr

/-- The controller's mode (R116). -/
inductive BusMode where
  | active
  | mute
  | silenced
  deriving DecidableEq, Repr

/-- The filtered level of a line, and how long the raw level has stood against it, in ms (R2, R14). -/
structure LevelLine where
  level : Bool
  held : Nat
  deriving DecidableEq, Repr

/-- A line that is low. -/
def LevelLine.low : LevelLine := { level := false, held := 0 }

/-- The level lines by function (R1, R2). `classes` are CLASS0 to CLASS5. -/
structure Levels where
  entryEye : LevelLine
  straightEye : LevelLine
  divertEye : LevelLine
  motorRun : LevelLine
  maint : LevelLine
  confirm : LevelLine
  decline : LevelLine
  classes : List LevelLine
  deriving DecidableEq, Repr

/-- The raw levels at the input pins (R1, R13, R14), written by the outside. -/
structure Pins where
  lines : List Bool
  reset : Bool
  straps : Straps
  deriving DecidableEq, Repr

/-- The Line Input Unit and the section clock (R1 to R12). -/
structure LineUnit where
  levels : Levels
  counts : List Nat
  sampleMs : Nat
  refreshMs : Nat
  runMs : Nat
  runHours : Nat
  deriving DecidableEq, Repr

/-- An inbound entry (R18). -/
structure InboundEntry where
  source : Addr
  tag : Tag
  thickness : PieceClass
  mass : PieceClass
  age : Nat
  deriving DecidableEq, Repr

/-- A piece record (R26). -/
structure PieceRecord where
  tag : Tag
  thickness : PieceClass
  mass : PieceClass
  age : Nat
  deriving DecidableEq, Repr

/-- The Piece Tracker (R17 to R39). -/
structure Tracker where
  sectionState : SectionState
  inbound : List InboundEntry
  pieces : List PieceRecord
  entryBlocked : Nat
  straightBlocked : Nat
  divertBlocked : Nat
  clearHold : Option Nat
  tagSeq : Nat
  departed : Nat
  missing : Nat
  phantom : Nat
  untagged : Nat
  jams : Nat
  deriving DecidableEq, Repr

/-- The Forecast Unit's node values (R89, R90). -/
structure Forecast where
  pending : NodeForecast
  announced : NodeForecast
  deriving DecidableEq, Repr

/-- An entry of the claim view (R138). -/
structure ClaimEntry where
  address : Addr
  urgency : Nat
  age : Nat
  deriving DecidableEq, Repr

/-- The Service Planner (R134 to R162). -/
structure Planner where
  view : List ClaimEntry
  standing : Standing
  window : WindowState
  takenSet : List Addr
  windowCount : Nat
  pendingHold : Option Nat
  takenValues : Option TakenValues
  takenOwed : Bool
  deriving DecidableEq, Repr

/-- The Order List (R163 to R173), with the changed marks of its records. -/
structure OrderList where
  ring : List OrderRecord
  marks : List Bool
  head : Nat
  tail : Nat
  openCount : Nat
  deriving DecidableEq, Repr

/-- The Line Bus Controller (R116). -/
structure BusController where
  view : BusView
  activity : Activity
  mode : BusMode
  muteMs : Option Nat
  faultCount : Nat
  seenIdle : Bool
  witness : Bool
  deriving DecidableEq, Repr

/-- The Notice Queue (R121 to R128), less the notice in transmission, which the controller's activity holds. -/
structure NoticeQueue where
  waiting : List Notice
  held : Option Notice
  removalMark : Bool
  dropped : Nat
  deriving DecidableEq, Repr

/-- A pending query (R129). -/
structure PendingQuery where
  querier : Addr
  kind : QueryKind
  arg : BitVec 5
  deriving DecidableEq, Repr

/-- The Account Store (R174 to R182). `due` holds the records that a checkpoint has
taken and not yet written, in the order of their writing. -/
structure Account where
  records : Store
  nodeMarked : Bool
  due : List RecordName
  commissionCount : Nat
  label : Tag
  labelCommitted : Bool
  staging : Configuration
  stagedItems : Nat
  lastCommit : Nat
  labelTaken : Bool
  listEmptied : Bool
  writes : List StoreWrite
  deriving DecidableEq, Repr

/-- The output lines (R15, R16). -/
structure Outputs where
  lamp : LampPattern
  lampPhase : Nat
  holdRequest : Bool
  deriving DecidableEq, Repr

/-- The whole node. `handed` is the work one block has handed to another and that is not yet taken, oldest first
(R28, R80; notes/assumptions/3.md); `choices` counts the orders of events left to the node that have been settled so far
(notes/assumptions/36.md); `pending` is the queue of commands that wait, first in, first out. -/
structure State where
  power : Bool
  node : NodeState
  resetLine : LevelLine
  straps : Straps
  pins : Pins
  cfg : Configuration
  cfgGood : Bool
  lines : LineUnit
  tracker : Tracker
  comps : List Component
  forecast : Forecast
  planner : Planner
  orders : OrderList
  bus : BusController
  queue : NoticeQueue
  query : Option PendingQuery
  account : Account
  out : Outputs
  handed : List Instr
  choices : Nat
  pending : List Instr
  deriving DecidableEq, Repr

/-- The node before power becomes good: a new part, nothing in its store, every volatile value as after power-on
(notes/assumptions/6.md and 7.md). -/
def State.reset : State :=
  { power := false
    node := .starting
    resetLine := .low
    straps := .low
    pins := { lines := List.replicate Config.lines false, reset := false, straps := .low }
    cfg := .blank
    cfgGood := false
    lines :=
      { levels :=
          { entryEye := .low, straightEye := .low, divertEye := .low, motorRun := .low, maint := .low,
            confirm := .low, decline := .low, classes := List.replicate 6 .low }
        counts := List.replicate Config.lines 0, sampleMs := 0, refreshMs := 0, runMs := 0, runHours := 0 }
    tracker :=
      { sectionState := .stopped, inbound := [], pieces := [], entryBlocked := 0, straightBlocked := 0,
        divertBlocked := 0, clearHold := none, tagSeq := 0, departed := 0, missing := 0, phantom := 0,
        untagged := 0, jams := 0 }
    comps := List.replicate Config.slots .zero
    forecast :=
      { pending := { urgency := 0, dueCount := 0, earliestHours := Config.hoursTop }
        announced := { urgency := 0, dueCount := 0, earliestHours := Config.hoursTop } }
    planner :=
      { view := [], standing := .none, window := .closed, takenSet := [], windowCount := 0, pendingHold := none,
        takenValues := none, takenOwed := false }
    orders :=
      { ring := List.replicate Config.slots .empty, marks := List.replicate Config.slots false, head := 0,
        tail := 0, openCount := 0 }
    bus :=
      { view := .busy, activity := .waiting, mode := .active, muteMs := none, faultCount := 0, seenIdle := false,
        witness := false }
    queue := { waiting := [], held := none, removalMark := false, dropped := 0 }
    query := none
    account :=
      { records := .new, nodeMarked := false, due := [], commissionCount := 0, label := 0, labelCommitted := false,
        staging := .blank, stagedItems := 0, lastCommit := 0, labelTaken := false, listEmptied := false,
        writes := [] }
    out := { lamp := .off, lampPhase := 0, holdRequest := false }
    handed := []
    choices := 0
    pending := [] }

end Sys2Proof.Machine
end

