-- ==== Sys2Proof/Machine/Operands.lean ====
section
/-! DEFINITION. Numbers, bytes and cells: saturating and clamped values (Conventions), the codes of section 7.4, the
payload of each notice, the frame on the line with its check word (R101, R102), and the check word of a stored record
(R174). -/

namespace Sys2Proof.Machine

open Sys2Proof

/-- A counter that stays at its top value ("saturating at", Conventions). -/
def satAdd (top count amount : Nat) : Nat := min top (count + amount)

/-- A value brought into a range ("clamped at", Conventions). -/
def clampTo (low high value : Nat) : Nat := max low (min high value)

/-- T_hold keeps 0, and is otherwise brought to 1000..1999 (R178). -/
def clampHold (value : Nat) : Nat := if value = 0 then 0 else clampTo 1000 1999 value

/-- Two bytes as a number, the most significant first (section 7.4). A number above 65535 is sent by its low 16 bits; only
a wear above its cap can be one (the model's choice, notes/assumptions/43.md). -/
def be16 (value : Nat) : List Byte := [BitVec.ofNat 8 (value / 256), BitVec.ofNat 8 value]

/-- Three bytes as a number, the most significant first (run-hours, section 7.4). -/
def be24 (value : Nat) : List Byte :=
  [BitVec.ofNat 8 (value / 65536), BitVec.ofNat 8 (value / 256), BitVec.ofNat 8 value]

/-- The function of a line from its code (section 7.4, INPUT). -/
def lineFnOf (code : Nat) : Option LineFn :=
  match code with
  | 0 => some .masked
  | 1 => some .entryEye
  | 2 => some .straightEye
  | 3 => some .divertEye
  | 4 => some .encoder
  | 5 => some .tach
  | 6 => some .motorRun
  | 7 => some .maint
  | 8 => some .confirm
  | 9 => some .decline
  | 10 => some (.classLine 0)
  | 11 => some (.classLine 1)
  | 12 => some (.classLine 2)
  | 13 => some (.classLine 3)
  | 14 => some (.classLine 4)
  | 15 => some (.classLine 5)
  | _ => none

/-- The kind of a component from its code (section 7.4). -/
def kindOf (code : Nat) : Option Kind :=
  match code with
  | 0 => some .driveRoller
  | 1 => some .pinchRoller
  | 2 => some .belt
  | _ => none

/-- The path of a component from its code (section 7.4). -/
def pathOf (code : Nat) : Option Path :=
  match code with
  | 0 => some .common
  | 1 => some .straight
  | 2 => some .divert
  | _ => none

/-- The class source from its code (section 7.4, LINE-B). -/
def classSourceOf (code : Nat) : Option ClassSource :=
  match code with
  | 0 => some .upstream
  | 1 => some .classLines
  | 2 => some .default
  | _ => none

/-- A field of two values, 0 no and 1 yes (section 7.4). -/
def yesNoOf (code : Nat) : Option Bool :=
  match code with
  | 0 => some false
  | 1 => some true
  | _ => none

/-- An exit from its code (section 7.4). -/
def exitOf (code : Nat) : Option ExitPath :=
  match code with
  | 0 => some .straight
  | 1 => some .divert
  | _ => none

/-- A tach line field: a line 0 to 23, FFh for none, nothing else (section 7.4, SLOT). -/
def tachOf (code : Nat) : Option (Option Nat) :=
  if code < Config.lines then some (some code) else if code = 0xFF then some none else none

/-- Codes of the exits (section 7.4). -/
def ExitPath.code : ExitPath → Nat
  | .straight => 0
  | .divert => 1

/-- Codes of the jam causes (section 7.4). -/
def JamCause.code : JamCause → Nat
  | .transit => 1
  | .blocked => 2
  | .crowded => 3

/-- Codes of the bands (section 7.4). -/
def Band.code : Band → Nat
  | .normal => 0
  | .watch => 1
  | .due => 2
  | .overlife => 3

/-- Codes of the kinds of component (section 7.4). -/
def Kind.code : Kind → Nat
  | .driveRoller => 0
  | .pinchRoller => 1
  | .belt => 2

/-- Codes of the paths (section 7.4). -/
def Path.code : Path → Nat
  | .common => 0
  | .straight => 1
  | .divert => 2

/-- Codes of order outcome and status (section 7.4). -/
def OrderStatus.code : OrderStatus → Nat
  | .empty => 0
  | .opened => 1
  | .done => 2
  | .declined => 3

/-- Codes of the section state (section 7.4). -/
def SectionState.code : SectionState → Nat
  | .running => 1
  | .stopped => 2
  | .jammed => 3

/-- Codes of the window state (section 7.4). -/
def WindowState.code : WindowState → Nat
  | .closed => 0
  | .pending => 1
  | .contending => 2
  | .servicing => 3
  | .deferred => 4
  | .standby => 5

/-- Codes of the standing (section 7.4). -/
def Standing.code : Standing → Nat
  | .none => 0
  | .granted => 1
  | .waiting => 2

/-- Codes of the query and report kinds (section 7.4). -/
def QueryKind.code : QueryKind → Nat
  | .identity => 1
  | .sectionInfo => 2
  | .counts => 3
  | .component => 4
  | .order => 5
  | .list => 6
  | .commission => 7

/-- A query kind from its code (section 7.4, R129). -/
def queryKindOf (code : Nat) : Option QueryKind :=
  match code with
  | 1 => some .identity
  | 2 => some .sectionInfo
  | 3 => some .counts
  | 4 => some .component
  | 5 => some .order
  | 6 => some .list
  | 7 => some .commission
  | _ => none

/-- A path of a component that an exit touches (R60). -/
def Path.isExit (path : Path) (exit : ExitPath) : Bool :=
  match path, exit with
  | .straight, .straight => true
  | .divert, .divert => true
  | _, _ => false

/-- The class of a notice (section 7.1). -/
def NoticeBody.cls : NoticeBody → Nat
  | .jam .. => 0
  | .passage .. => 1
  | .taken _ => 2
  | .claim _ => 3
  | .withdraw => 3
  | .alert .. => 4
  | .order .. => 4
  | .report .. => 6

/-- The destination of a notice (section 7.1). -/
def NoticeBody.dest : NoticeBody → Addr
  | .report querier _ => querier
  | _ => 0

/-- CLAIM and WITHDRAW share one place in the queue (R123). -/
def NoticeBody.isClaimKind : NoticeBody → Bool
  | .claim _ => true
  | .withdraw => true
  | _ => false

/-- A TAKEN (R125). -/
def NoticeBody.isTaken : NoticeBody → Bool
  | .taken _ => true
  | _ => false

/-- A REPORT (R130). -/
def NoticeBody.isReport : NoticeBody → Bool
  | .report .. => true
  | _ => false

/-- The payload bytes of a notice (section 7.4). -/
def NoticeBody.payload : NoticeBody → List Byte
  | .jam cause cleared oldest => [BitVec.ofNat 8 cause.code, BitVec.ofNat 8 cleared] ++ be16 oldest.toNat
  | .passage tag thickness mass exit phantom =>
      be16 tag.toNat ++
        [BitVec.ofNat 8 (thickness.toNat * 32 + mass.toNat * 4 + ExitPath.code exit * 2 + phantom.toNat)]
  | .taken values => [BitVec.ofNat 8 values.urgency, BitVec.ofNat 8 values.dueCount] ++ be16 values.windowCount
  | .claim values => [BitVec.ofNat 8 values.urgency, BitVec.ofNat 8 values.dueCount] ++ be16 values.earliestHours
  | .withdraw => []
  | .alert slot band wear hours =>
      [0x01, BitVec.ofNat 8 slot, BitVec.ofNat 8 band.code] ++ be16 wear ++ be16 hours
  | .order index slot outcome windowCount serviceCount =>
      [0x02, BitVec.ofNat 8 index, BitVec.ofNat 8 slot, BitVec.ofNat 8 outcome.code] ++ be16 windowCount ++
        [BitVec.ofNat 8 serviceCount]
  | .report _ bytes => bytes

/-- The header of a notice of the node at an address (R117): the value by which the queue orders it. -/
def Notice.header (addr : Addr) (n : Notice) : Nat := n.body.cls * 16384 + n.priority * 64 + addr.toNat

/-- The `width` low bits of a number, the most significant first (R101). -/
def bitsOf : Nat → Nat → List Bool
  | 0, _ => []
  | width + 1, value => value.testBit width :: bitsOf width value

/-- The number that bits spell, the most significant first. -/
def ofBits (bits : List Bool) : Nat := bits.foldl (fun value bit => 2 * value + bit.toNat) 0

/-- One bit into the check-word register (R102). -/
def crcStep (register : BitVec 16) (bit : Bool) : BitVec 16 :=
  if register.msb != bit then (register <<< 1) ^^^ 0x1021#16 else register <<< 1

/-- The check word of a run of bits (R102). -/
def checkWord (bits : List Bool) : BitVec 16 := bits.foldl crcStep 0xFFFF#16

/-- The bits of a payload, byte by byte (R101). -/
def payloadBits : List Byte → List Bool
  | [] => []
  | byte :: bytes => bitsOf 8 byte.toNat ++ payloadBits bytes

/-- The check word of a record's bytes: the polynomial and the starting value of the bus (R174). -/
def recordCheck (bytes : List Byte) : BitVec 16 := checkWord (payloadBits bytes)

/-- What a record write leaves: the contents and their check word (R174). -/
def sealed {α : Type} (bytes : α → List Byte) (contents : α) : Stored α :=
  .written contents (recordCheck (bytes contents))

/-- A record as it is read (R174): good when its check word matches its contents. -/
def Stored.found {α : Type} (bytes : α → List Byte) : Stored α → Found α
  | .absent => .absent
  | .written contents check => if check = recordCheck (bytes contents) then .good contents else .bad

/-- The bits of a frame that the check word covers: class to last payload bit (R101, R102). -/
def coveredBits (cls priority : Nat) (source dest : Addr) (payload : List Byte) : List Bool :=
  bitsOf 3 cls ++ bitsOf 8 priority ++ bitsOf 6 source.toNat ++ bitsOf 6 dest.toNat ++ bitsOf 4 payload.length ++
    payloadBits payload

/-- The cells of a frame from the lead cell to the last check word cell; true is 1, recessive (R97, R101). -/
def frameCells (cls priority : Nat) (source dest : Addr) (payload : List Byte) : List Bool :=
  false :: (coveredBits cls priority source dest payload ++
    bitsOf 16 (checkWord (coveredBits cls priority source dest payload)).toNat)

/-- The cells a node at an address sends for a notice (R101). -/
def Notice.cells (addr : Addr) (n : Notice) : List Bool :=
  frameCells n.body.cls n.priority addr n.body.dest n.body.payload

/-- A frame that was received whole (R106). -/
structure Frame where
  cls : Nat
  priority : Nat
  source : Addr
  dest : Addr
  payload : List Byte
  checkOk : Bool
  deriving DecidableEq, Repr

/-- The number in the next `width` cells, and the cells after them; none where the cells run out (R98, R105). -/
def takeBits (width : Nat) (cells : List Bool) : Option (Nat × List Bool) :=
  if width ≤ cells.length then some (ofBits (cells.take width), cells.drop width) else none

/-- The next `count` bytes, and the cells after them. -/
def takeBytes : Nat → List Bool → Option (List Byte × List Bool)
  | 0, cells => some ([], cells)
  | count + 1, cells =>
    match takeBits 8 cells with
    | none => none
    | some (byte, cells) =>
      match takeBytes count cells with
      | none => none
      | some (bytes, cells) => some (BitVec.ofNat 8 byte :: bytes, cells)

/-- Read the cells of a frame. None is a broken frame (R105): a lead cell that is not dominant, cells that run out
before the end of the check word (a cell had no leading pulse), or a length of 13 to 15. -/
def parseFrame (cells : List Bool) : Option Frame :=
  match cells with
  | false :: rest =>
    match takeBits 3 rest with
    | none => none
    | some (cls, c1) =>
    match takeBits 8 c1 with
    | none => none
    | some (priority, c2) =>
    match takeBits 6 c2 with
    | none => none
    | some (source, c3) =>
    match takeBits 6 c3 with
    | none => none
    | some (dest, c4) =>
    match takeBits 4 c4 with
    | none => none
    | some (len, c5) =>
    if Config.payloadTop < len then none else
    match takeBytes len c5 with
    | none => none
    | some (payload, c6) =>
    match takeBits 16 c6 with
    | none => none
    | some (check, _) =>
      some
        { cls := cls, priority := priority, source := BitVec.ofNat 6 source, dest := BitVec.ofNat 6 dest,
          payload := payload, checkOk := check == (checkWord (rest.take (27 + 8 * len))).toNat }
  | _ => none

/-- Two bytes as one number, the first the more significant (section 7.4). -/
def word16 (high low : Byte) : BitVec 16 := high ++ low

/-- Four bytes as one number (L of SLOT, section 7.4). -/
def word32 (b3 b2 b1 b0 : Byte) : BitVec 32 := b3 ++ b2 ++ (b1 ++ b0)

/-- Ten bytes as the 80 packed bits of FACTORS (section 7.4). -/
def word80 (bytes : List Byte) : BitVec 80 :=
  BitVec.ofNat 80 (bytes.foldl (fun value byte => value * 256 + byte.toNat) 0)

/-- The eight 10-bit factors of a FACTORS item, index 0 first (section 7.4). -/
def unpackFactors (packed : BitVec 80) : List Nat :=
  [7, 6, 5, 4, 3, 2, 1, 0].map fun i => packed.toNat / 1024 ^ i % 1024

end Sys2Proof.Machine
end

