-- ==== Sys2Proof/Machine/Flags.lean ====
section
/-! DEFINITION. What follows from a record or from the state: slip (R42 to R46), wear, band (R58, R71), remaining
hours and urgency (R85, R87), the node values (R89), the standing (R145), the lamp and HOLD REQUEST (R15, R16). -/

namespace Sys2Proof.Machine

open Sys2Proof

/-- Expected count of a measured roller (R42). -/
def expectedCount (encoder ratio : Nat) : Nat := encoder * ratio / 256

/-- The slip sample of a roller whose expected count is X, given its tach count M (R43). -/
def slipSample (expected tach : Nat) : Nat :=
  if expected ≤ tach then 0 else 1000 * (expected - tach) / expected

/-- The slip after a period (R43, R44): held below the floor, else smoothed. -/
def nextSlip (slip encoder ratio tach : Nat) : Nat :=
  if expectedCount encoder ratio < Config.sampleFloor then slip
  else (3 * slip + slipSample (expectedCount encoder ratio) tach) / 4

/-- The slip factor SF (R46). -/
def slipFactor (slip gain : Nat) : Nat := min 1023 (256 + slip * gain / 64)

/-- The cap of an account (R56). -/
def capOf (life : Nat) : Nat := 2 ^ 29 * life - 1

/-- The rated life in ticks, L × 2^28 (R58). -/
def lifeTicks (life : Nat) : Nat := life * Config.ticksPerPassage

/-- Wear in per-mille of rated life (R58). -/
def wearOf (account life : Nat) : Nat := 1000 * account / lifeTicks life

/-- Remaining hours (R85). -/
def hoursOf (life : Nat) (d : DynRecord) : Nat :=
  if lifeTicks life ≤ d.account then 0
  else if d.rateValid = false ∨ d.rate = 0 then Config.hoursTop
  else min Config.hoursTop ((lifeTicks life - d.account) / d.rate)

/-- Urgency of a component (R87). -/
def urgencyOf (hz tWatch wear hours : Nat) : Nat :=
  if 1000 ≤ wear then 255
  else if hours < hz then 128 + 127 * (hz - hours) / hz
  else if tWatch ≤ wear then 127 * wear / 1000
  else 0

/-- Band of a component (R71). -/
def bandOf (tWatch wear urgency : Nat) : Band :=
  if 1000 ≤ wear then .overlife
  else if Config.dueUrgency ≤ urgency then .due
  else if tWatch ≤ wear then .watch
  else .normal

/-- The rate folded with the hour just ended (R82). -/
def nextRate (d : DynRecord) : Nat := if d.rateValid then (3 * d.rate + d.hourDelta) / 4 else d.hourDelta

/-- The slot of a configuration; a slot beyond the table is blank. -/
def Configuration.slot (c : Configuration) (i : Nat) : SlotConfig := c.slots.getD i .blank

/-- The function of a line; a line beyond the 24 is masked. -/
def Configuration.fn (c : Configuration) (line : Nat) : LineFn := c.functions.getD line .masked

/-- Some line carries this function (R1). -/
def Configuration.assigned (c : Configuration) (fn : LineFn) : Bool := c.functions.contains fn

/-- How many lines carry this function (R180). -/
def Configuration.countOf (c : Configuration) (fn : LineFn) : Nat := c.functions.count fn

/-- All six class lines are assigned; a committed configuration has all or none of them (R1, R7). -/
def Configuration.classLinesAssigned (c : Configuration) : Bool := c.assigned (.classLine 0)

/-- The present records of the component table with their urgency and hours, folded into the three node values
(R89). -/
def nodeForecast : List SlotConfig → List Component → NodeForecast
  | sl :: slots, c :: comps =>
    let rest := nodeForecast slots comps
    if sl.present then
      { urgency := max c.urgency rest.urgency
        dueCount := if Config.dueUrgency ≤ c.urgency then rest.dueCount + 1 else rest.dueCount
        earliestHours := if Config.dueUrgency ≤ c.urgency then min c.hours rest.earliestHours else rest.earliestHours }
    else rest
  | _, _ => { urgency := 0, dueCount := 0, earliestHours := Config.hoursTop }

/-- An entry ranks before another: higher U, then the lower address (R138). -/
def ClaimEntry.before (a b : ClaimEntry) : Bool :=
  decide (b.urgency < a.urgency) || (a.urgency == b.urgency && decide (a.address < b.address))

/-- An entry outranks a node of an announced urgency and address (R145). -/
def ClaimEntry.outranks (e : ClaimEntry) (urgency : Nat) (addr : Addr) : Bool :=
  decide (urgency < e.urgency) || (e.urgency == urgency && decide (e.address < addr))

/-- The standing from the announced urgency and the view (R134, R145). -/
def standingOf (k urgency : Nat) (addr : Addr) (view : List ClaimEntry) : Standing :=
  if urgency < Config.dueUrgency then .none
  else if (view.filter fun e => e.outranks urgency addr).length < k then .granted
  else .waiting

/-- The node is in a running state (R99). -/
def State.running (s : State) : Bool :=
  match s.node with
  | .starting => false
  | .unconfigured => true
  | .commissioning => true
  | .operating => true

/-- The node is OPERATING. -/
def State.operating (s : State) : Bool := s.node == .operating

/-- The bus side is SILENCED (R114). -/
def State.silenced (s : State) : Bool := s.bus.mode == .silenced

/-- The node has an own claim (R134). -/
def State.ownClaim (s : State) : Bool := decide (Config.dueUrgency ≤ s.forecast.announced.urgency)

/-- A strap address the bus side can use (R13). -/
def usableAddr (addr : Addr) : Bool := addr != 0 && addr != 63

/-- The mode the straps give at a start (R13, R114). -/
def strapMode (straps : Straps) : BusMode := if usableAddr straps.addr then .active else .silenced

/-- The pattern of the SERVICE lamp: the first condition that holds (R15). -/
def lampOf (s : State) : LampPattern :=
  if s.resetLine.level = false ∨ s.node = .starting then .off
  else if s.node = .unconfigured then .fault
  else if s.silenced then .fault
  else if s.node = .commissioning then .off
  else if s.planner.window = .servicing ∧ 0 < s.orders.openCount then .on
  else if s.planner.window = .closed ∧ s.planner.standing = .granted then .flash
  else .off

/-- Some present component has wear at least a limit (R16). -/
def anyWearAtLeast (limit : Nat) : List SlotConfig → List Component → Bool
  | sl :: slots, c :: comps => (sl.present && decide (limit ≤ c.wear)) || anyWearAtLeast limit slots comps
  | _, _ => false

/-- HOLD REQUEST (R16). -/
def holdOf (s : State) : Bool :=
  s.operating &&
    (s.tracker.sectionState == .jammed ||
      (s.cfg.tHold != 0 && anyWearAtLeast s.cfg.tHold s.cfg.slots s.comps))

/-- The lamp is lit at a point of its pattern (R15). -/
def lampLit (pattern : LampPattern) (phase : Nat) : Bool :=
  match pattern with
  | .off => false
  | .on => true
  | .flash => decide (phase < 500)
  | .fault => decide (phase < 100 ∨ (200 ≤ phase ∧ phase < 300))

/-- The bit time in microseconds (R97). -/
def bitTimeMicros (rate : BitVec 2) : Nat :=
  match rate.toNat with
  | 0 => 16
  | 1 => 8
  | 2 => 4
  | _ => 2

/-- The clear condition: MOTOR_RUN low and every assigned eye clear (R36). -/
def State.clearCondition (s : State) : Bool :=
  !s.lines.levels.motorRun.level && !s.lines.levels.entryEye.level && !s.lines.levels.straightEye.level &&
    !(s.cfg.assigned .divertEye && s.lines.levels.divertEye.level)

end Sys2Proof.Machine
end

