-- ==== Sys2Proof/Machine/Ops.lean ====
section
/-! DEFINITION. The operations the meanings share: handing work over (R28, R80), the transmit queue (R121 to R127),
the component table (R56, R59, R73), the announced values and the standing (R90, R146), line levels (R2), the outputs
(R15, R16), and the source check of what the bus hands on (R106). -/

namespace Sys2Proof.Machine

open Sys2Proof

/-- What one command answers. -/
abbrev Result := Host.Outcome State Fault Refusal

/-! ### Work between blocks -/

/-- Hand work to the blocks that own it; it joins after the work already handed over (R28, R34). -/
def State.hand (s : State) (work : List Instr) : State := { s with handed := s.handed ++ work }

/-- A block takes a piece of work: it is no longer outstanding (notes/assumptions/3.md). -/
def State.take (s : State) (work : Instr) : State := { s with handed := s.handed.erase work }

/-! ### Run time -/

/-- The counters at a run-hour boundary: run-ms returns to 0 and run-hours rises (R12). -/
def LineUnit.endHour (l : LineUnit) : LineUnit :=
  { l with runMs := 0, runHours := satAdd Config.runHoursTop l.runHours 1 }

/-! ### Outputs -/

/-- The outputs follow the state: the lamp's pattern, which starts afresh when it changes (R15), and HOLD REQUEST
(R16). -/
def State.settle (s : State) : State :=
  { s with
    out :=
      { lamp := lampOf s
        lampPhase := if lampOf s = s.out.lamp then s.out.lampPhase else 0
        holdRequest := holdOf s } }

/-- A command's next state, with the outputs following it. -/
def done (s : State) : Result := .next s.settle

/-! ### Line levels -/

/-- Give the filtered level of a function, its hold restarted (R2). -/
def Levels.put (l : Levels) (fn : LineFn) (high : Bool) : Levels :=
  match fn with
  | .entryEye => { l with entryEye := { level := high, held := 0 } }
  | .straightEye => { l with straightEye := { level := high, held := 0 } }
  | .divertEye => { l with divertEye := { level := high, held := 0 } }
  | .motorRun => { l with motorRun := { level := high, held := 0 } }
  | .maint => { l with maint := { level := high, held := 0 } }
  | .confirm => { l with confirm := { level := high, held := 0 } }
  | .decline => { l with decline := { level := high, held := 0 } }
  | .classLine i => { l with classes := l.classes.set i { level := high, held := 0 } }
  | .masked => l
  | .encoder => l
  | .tach => l

/-- Raw levels after a filtered edge: the line of the function stands at the new level, since the filtered level
follows the raw one (R2). -/
def putPins : LineFn → Bool → List LineFn → List Bool → List Bool
  | fn, high, f :: fs, p :: ps => (if f = fn then high else p) :: putPins fn high fs ps
  | _, _, _, ps => ps

/-- A filtered edge on the line of a function (R2). -/
def State.edge (s : State) (fn : LineFn) (high : Bool) : State :=
  { s with
    lines := { s.lines with levels := s.lines.levels.put fn high }
    pins := { s.pins with lines := putPins fn high s.cfg.functions s.pins.lines } }

/-- In JAMMED the clear hold runs while the clear condition holds, and any break ends it (R36). -/
def State.reviewHold (s : State) : State :=
  if s.tracker.sectionState = .jammed then
    { s with
      tracker :=
        { s.tracker with clearHold := if s.clearCondition then some (s.tracker.clearHold.getD 0) else none } }
  else s

/-! ### The transmit queue -/

/-- The notice in transmission (R122). -/
def State.inFlight (s : State) : Option Notice :=
  match s.bus.activity with
  | .sending n => some n
  | .waiting => none
  | .receiving => none
  | .awaitingIdle => none

/-- How many of the eight places are taken; the notice in transmission counts (R122). -/
def State.queued (s : State) : Nat := s.queue.waiting.length + (if s.inFlight.isSome then 1 else 0)

/-- Join after every notice of lower or equal header and before every notice of higher header (R121). -/
def joinAfter (addr : Addr) (n : Notice) : List Notice → List Notice
  | [] => [n]
  | m :: ms => if n.header addr < m.header addr then n :: m :: ms else m :: joinAfter addr n ms

/-- Return to the place held in the queue: before the notices of equal header, which joined later (R100, R122). -/
def rejoin (addr : Addr) (n : Notice) : List Notice → List Notice
  | [] => [n]
  | m :: ms => if n.header addr ≤ m.header addr then n :: m :: ms else m :: rejoin addr n ms

/-- Put the waiting notices. -/
def State.setWaiting (s : State) (waiting : List Notice) : State :=
  { s with queue := { s.queue with waiting := waiting } }

/-- A notice joins the waiting notices (R121). -/
def State.joinQueue (s : State) (n : Notice) : State := s.setWaiting (joinAfter s.straps.addr n s.queue.waiting)

/-- The block of a notice that was evicted or dropped is told (R126): the Service Planner notes that its TAKEN is to
be handed over again (R157), and a pending query ends (R130). -/
def State.tellLost (s : State) (n : Notice) : State :=
  match n.body with
  | .taken _ =>
    if s.planner.window = .contending then { s with planner := { s.planner with takenOwed := true } } else s
  | .report _ _ => { s with query := none }
  | _ => s

/-- One more notice evicted or dropped (R128). -/
def State.countDropped (s : State) : State :=
  { s with queue := { s.queue with dropped := satAdd Config.countTop s.queue.dropped 1 } }

/-- A notice joins, or at a full queue evicts the last entry or is dropped (R121, R124). -/
def State.offerPlain (s : State) (n : Notice) : State :=
  if s.queued < Config.queuePlaces then s.joinQueue n
  else
    match s.queue.waiting.getLast? with
    | none => s.countDropped.tellLost n
    | some last =>
      if n.header s.straps.addr < last.header s.straps.addr then
        ((s.countDropped.setWaiting s.queue.waiting.dropLast).joinQueue n).tellLost last
      else s.countDropped.tellLost n

/-- A notice handed over in SILENCED is discarded without count; a TAKEN so discarded defers a contending node
(R127, R157). -/
def State.discard (s : State) (n : Notice) : State :=
  if n.body.isTaken ∧ s.planner.window = .contending then
    { s with planner := { s.planner with window := .deferred } }
  else s

/-- Some notice of the waiting ones is a CLAIM or WITHDRAW (R123). -/
def hasClaimKind (waiting : List Notice) : Bool := waiting.any fun m => m.body.isClaimKind

/-- The notice in transmission is a CLAIM or WITHDRAW (R123). -/
def State.sendingClaimKind (s : State) : Bool :=
  match s.inFlight with
  | some m => m.body.isClaimKind
  | none => false

/-- A block hands a notice to the Notice Queue (R121 to R124, R127). -/
def State.offer (s : State) (n : Notice) : State :=
  if s.silenced then s.discard n
  else if n.body.isClaimKind && hasClaimKind s.queue.waiting then
    s.setWaiting (joinAfter s.straps.addr n (s.queue.waiting.filter fun m => !m.body.isClaimKind))
  else if n.body.isClaimKind && s.sendingClaimKind then
    { s with queue := { s.queue with held := some n } }
  else s.offerPlain n

/-- Several notices, one after the other. -/
def State.offerAll (s : State) : List Notice → State
  | [] => s
  | n :: ns => (s.offer n).offerAll ns

/-- The notice in transmission was lost or aborted (R122, R123, R125): it returns to its place, unless a held
successor takes it or a removal was asked for. -/
def State.takeBack (s : State) (n : Notice) : State :=
  if n.body.isTaken && s.queue.removalMark then
    { s with queue := { s.queue with removalMark := false } }
  else if n.body.isClaimKind then
    match s.queue.held with
    | some successor =>
      { s with
        queue := { s.queue with held := none, waiting := joinAfter s.straps.addr successor s.queue.waiting } }
    | none => s.setWaiting (rejoin s.straps.addr n s.queue.waiting)
  else s.setWaiting (rejoin s.straps.addr n s.queue.waiting)

/-- The Service Planner asks for the removal of its TAKEN (R125): one that waits is removed without count, one in
transmission is marked. -/
def State.removeTaken (s : State) : State :=
  { s with
    queue :=
      { s.queue with
        waiting := s.queue.waiting.filter fun m => !m.body.isTaken
        removalMark := s.queue.removalMark || (s.inFlight.any fun m => m.body.isTaken) } }

/-! ### The component table -/

/-- The record of a slot; a slot beyond the table is the zero record. -/
def State.comp (s : State) (i : Nat) : Component := s.comps.getD i .zero

/-- Rework every present record of the table, each on its own (R59, R84). -/
def mapSlots (f : SlotConfig → Component → Component) : List SlotConfig → List Component → List Component
  | sl :: slots, c :: comps => (if sl.present then f sl c else c) :: mapSlots f slots comps
  | [], comps => comps
  | _ :: _, [] => []

/-- The ALERT of a record: class 4, priority field 255 − U (R73). -/
def alertOf (i : Nat) (c : Component) : Notice :=
  { priority := 255 - c.urgency, body := .alert i c.band c.wear c.hours }

/-- One ALERT for each record whose band has changed, in slot order (R59, R73). -/
def bandAlerts : Nat → List Component → List Component → List Notice
  | i, old :: olds, new :: news =>
    if old.band = new.band then bandAlerts (i + 1) olds news else alertOf i new :: bandAlerts (i + 1) olds news
  | _, _, _ => []

/-- The pending values worked out afresh (R89). -/
def State.refreshPending (s : State) : State :=
  { s with forecast := { s.forecast with pending := nodeForecast s.cfg.slots s.comps } }

/-- Put the component table, with the pending values that follow from it (R89). -/
def State.setComps (s : State) (comps : List Component) : State := { s with comps := comps }.refreshPending

/-- Rework the table: every present record, then the ALERTs of the bands that changed (R59, R84). -/
def State.rework (s : State) (f : SlotConfig → Component → Component) : State :=
  (s.setComps (mapSlots f s.cfg.slots s.comps)).offerAll (bandAlerts 0 s.comps (mapSlots f s.cfg.slots s.comps))

/-- A credit of an increment to a record (R56, R59): added and clamped at the cap, the applied amount into the hour
delta, then W, U and the band where they move. An applied amount of 0 changes nothing. -/
def Component.credit (cfg : Configuration) (sl : SlotConfig) (c : Component) (increment : Nat) : Component :=
  let account := min (capOf sl.life) (c.dyn.account + increment)
  if account ≤ c.dyn.account then c
  else
    let wear := wearOf account sl.life
    let urgency := if wear = c.wear then c.urgency else urgencyOf cfg.hz cfg.tWatch wear c.hours
    let band := if wear = c.wear ∧ urgency = c.urgency then c.band else bandOf cfg.tWatch wear urgency
    { c with
      dyn :=
        { c.dyn with
          account := account
          hourDelta := satAdd Config.deltaTop c.dyn.hourDelta (account - c.dyn.account) }
      wear := wear
      urgency := urgency
      band := band
      marked := true }

/-- The fields of a record that follow from its stored ones (R53, R85, R87, R71): worked out afresh. -/
def Component.derive (cfg : Configuration) (sl : SlotConfig) (c : Component) : Component :=
  let wear := wearOf c.dyn.account sl.life
  let hours := hoursOf sl.life c.dyn
  let urgency := urgencyOf cfg.hz cfg.tWatch wear hours
  { c with wear := wear, hours := hours, urgency := urgency, band := bandOf cfg.tWatch wear urgency }

/-! ### The announced values -/

/-- The standing decided again (R145, R146). -/
def State.decideStanding (s : State) : State :=
  { s with
    planner :=
      { s.planner with
        standing := standingOf s.cfg.k s.forecast.announced.urgency s.straps.addr s.planner.view } }

/-- The copy of the pending values into the announced ones, with the standing (R90, R146). -/
def State.copyAnnounced (s : State) : State :=
  { s with forecast := { s.forecast with announced := s.forecast.pending } }.decideStanding

/-- The CLAIM of the announced values (R118). -/
def State.claimNotice (s : State) : Notice :=
  { priority := 255 - s.forecast.announced.urgency, body := .claim s.forecast.announced }

/-- The WITHDRAW, priority field 255 (R118). -/
def withdrawNotice : Notice := { priority := 255, body := .withdraw }

/-- The TAKEN of a window's values (R118, R155). -/
def takenNotice (values : TakenValues) : Notice := { priority := 255 - values.urgency, body := .taken values }

/-! ### What the bus hands on -/

/-- A source whose frames are accepted: 1 to 62 and not the node's own address (R106). -/
def State.acceptsSource (s : State) (source : Addr) : Bool :=
  usableAddr source && source != s.straps.addr

end Sys2Proof.Machine
end

