-- ==== Sys2Proof/Machine/Wear.lean ====
section
/-! DEFINITION. The four credits and REPLACE (spec/04_component_records_and_the_wear_arithmetic.md). -/

namespace Sys2Proof.Machine

open Sys2Proof

/-- The thickness factor of a class (R62). -/
def Configuration.tf (c : Configuration) (t : PieceClass) : Nat := c.thicknessFactors.getD t.toNat 0

/-- The mass factor of a class (R62). -/
def Configuration.mf (c : Configuration) (m : PieceClass) : Nat := c.massFactors.getD m.toNat 0

/-- A piece credit reaches this slot: the COMMON ones unless it is a phantom, and those of its exit (R60). -/
def creditedBy (sl : SlotConfig) (exit : ExitPath) (phantom : Bool) : Bool :=
  (sl.path == .common && !phantom) || sl.path.isExit exit

/-- The increment of a piece credit: TF × MF × SF × Kc ticks (R61). -/
def pieceIncrement (cfg : Configuration) (t m : PieceClass) (exit : ExitPath) (phantom : Bool) (sl : SlotConfig)
    (c : Component) : Nat :=
  if creditedBy sl exit phantom then cfg.tf t * cfg.mf m * slipFactor c.dyn.slip cfg.g * sl.weight else 0

/-- The increment of a distance credit: E × D × 4096 ticks (R65). -/
def distanceIncrement (count : Nat) (sl : SlotConfig) : Nat := count * sl.distance * 4096

/-- The increment of a start surcharge: S × 1,048,576 ticks (R67). -/
def startIncrement (sl : SlotConfig) : Nat := sl.start * 1048576

/-- The increment of a jam surcharge: J × 2^28 ticks for a COMMON record (R68). -/
def jamIncrement (cfg : Configuration) (sl : SlotConfig) : Nat :=
  if sl.path = .common then cfg.j * Config.ticksPerPassage else 0

/-- A credit to every present record, each by its own increment (R56, R59, R69). -/
def State.creditAll (s : State) (increment : SlotConfig → Component → Nat) : State :=
  s.rework fun sl c => c.credit s.cfg sl (increment sl c)

/-- PIECE_CREDIT (R60, R61). -/
def execPieceCredit (thickness mass : PieceClass) (exit : ExitPath) (phantom : Bool) (s : State) : Result :=
  let s1 := s.take (.pieceCredit thickness mass exit phantom)
  if s.operating then done (s1.creditAll (pieceIncrement s.cfg thickness mass exit phantom)) else .next s1

/-- DISTANCE_CREDIT (R65). -/
def execDistanceCredit (count : Nat) (s : State) : Result :=
  let s1 := s.take (.distanceCredit count)
  if s.operating then done (s1.creditAll fun sl _ => distanceIncrement count sl) else .next s1

/-- START_SURCHARGE (R67). -/
def execStartSurcharge (s : State) : Result :=
  let s1 := s.take .startSurcharge
  if s.operating then done (s1.creditAll fun sl _ => startIncrement sl) else .next s1

/-- JAM_SURCHARGE (R68). -/
def execJamSurcharge (s : State) : Result :=
  let s1 := s.take .jamSurcharge
  if s.operating then done (s1.creditAll fun sl _ => jamIncrement s.cfg sl) else .next s1

/-- A record after REPLACE (R74, R92): account, slip and hour delta 0, rate and rate-valid kept, the service count
raised, LOST cleared, and W, H, U and band worked out. -/
def Component.replaced (cfg : Configuration) (sl : SlotConfig) (c : Component) : Component :=
  Component.derive cfg sl
    { c with
      dyn :=
        { c.dyn with
          account := 0, slip := 0, hourDelta := 0, lost := false
          serviceCount := satAdd 255 c.dyn.serviceCount 1 }
      marked := true }

/-- REPLACE (R74) of a present slot: the record, the pending values, and one ALERT whether or not the band moved. A
slot that is not present has nothing to replace. -/
def State.replaceSlot (s : State) (slot : Nat) : State :=
  if (s.cfg.slot slot).present then
    let c := (s.comp slot).replaced s.cfg (s.cfg.slot slot)
    (s.setComps (s.comps.set slot c)).offer (alertOf slot c)
  else s

/-- REPLACE (R74). -/
def execReplace (slot : Nat) (s : State) : Result :=
  let s1 := s.take (.replace slot)
  if s.operating && (s.cfg.slot slot).present then done (s1.replaceSlot slot) else .next s1

end Sys2Proof.Machine
end

