-- ==== Sys2Proof/Machine/WorkOrders.lean ====
section
/-! DEFINITION. The work-order list (spec/10_the_work_order_list.md): the ring, appending on entry to SERVICING, and
the technician's CONFIRM and DECLINE. -/

namespace Sys2Proof.Machine

open Sys2Proof

/-- The next position of the ring, wrapping from 31 to 0 (R164). -/
def nextPosition (position : Nat) : Nat := (position + 1) % Config.slots

/-- The order record at a position; a position beyond the ring is EMPTY. -/
def OrderList.at (o : OrderList) (position : Nat) : OrderRecord := o.ring.getD position .empty

/-- The slots that receive an order: present, U of 128 or more, flag clear, in slot order (R165). -/
def dueSlots : Nat → List SlotConfig → List Component → List Nat
  | i, sl :: slots, c :: comps =>
    if sl.present && decide (Config.dueUrgency ≤ c.urgency) && !c.openOrder then i :: dueSlots (i + 1) slots comps
    else dueSlots (i + 1) slots comps
  | _, _, _ => []

/-- Place a slot before the later slots of equal or lower urgency (R165). -/
def insertDue (comps : List Component) (i : Nat) : List Nat → List Nat
  | [] => [i]
  | j :: js =>
    if (comps.getD j .zero).urgency ≤ (comps.getD i .zero).urgency then i :: j :: js
    else j :: insertDue comps i js

/-- Sort slots by U, highest first, and among equal U by slot, lowest first (R165). -/
def sortDue (comps : List Component) : List Nat → List Nat
  | [] => []
  | i :: is => insertDue comps i (sortDue comps is)

/-- Set or clear the open-order flag of a slot (R55). It is derived, and marks nothing changed. -/
def State.setFlag (s : State) (slot : Nat) (flag : Bool) : State :=
  { s with comps := s.comps.set slot { s.comp slot with openOrder := flag } }

/-- Append one order at the tail (R165). -/
def State.appendOrder (s : State) (slot : Nat) : State :=
  let order : OrderRecord :=
    { slot := slot, action := .replace, wearAtIssue := (s.comp slot).wear, urgencyAtIssue := (s.comp slot).urgency,
      windowAtIssue := s.planner.windowCount, status := .opened, windowAtClose := 0 }
  { s with
    orders :=
      { s.orders with
        ring := s.orders.ring.set s.orders.tail order
        marks := s.orders.marks.set s.orders.tail true
        tail := nextPosition s.orders.tail
        openCount := s.orders.openCount + 1 }
    account := { s.account with nodeMarked := true } }.setFlag slot true

/-- Append orders for several slots, in order. -/
def State.appendOrders (s : State) : List Nat → State
  | [] => s
  | i :: is => (s.appendOrder i).appendOrders is

/-- Entry to SERVICING: one order for each component that qualifies (R165, R166). -/
def State.appendDue (s : State) : State :=
  s.appendOrders (sortDue s.comps (dueSlots 0 s.cfg.slots s.comps))

/-- The list is working: SERVICING with an open order (R170). -/
def State.listWorking (s : State) : Bool := s.planner.window == .servicing && decide (0 < s.orders.openCount)

/-- Close the head order (R167, R168): status and closing window count written, the flag cleared, the head moved on. -/
def State.closeHead (s : State) (outcome : OrderStatus) : State :=
  { s with
    orders :=
      { s.orders with
        ring :=
          s.orders.ring.set s.orders.head
            { s.orders.at s.orders.head with status := outcome, windowAtClose := s.planner.windowCount }
        marks := s.orders.marks.set s.orders.head true
        head := nextPosition s.orders.head
        openCount := s.orders.openCount - 1 }
    account := { s.account with nodeMarked := true } }.setFlag (s.orders.at s.orders.head).slot false

/-- The ORDER notice of a closed order: class 4, priority field 255 (R119, R171). -/
def orderNotice (index slot : Nat) (outcome : OrderStatus) (windowCount serviceCount : Nat) : Notice :=
  { priority := 255, body := .order index slot outcome windowCount serviceCount }

/-- One more choice has been asked for (notes/assumptions/36.md). -/
def State.countChoice (s : State) : State := { s with choices := s.choices + 1 }

/-- CONFIRM with an open order (R167): the head order closes as DONE, REPLACE is requested, and an ORDER carries the
service count that the REPLACE brings about. Either may take effect first (R119): the REPLACE before the ORDER, or after
it, as work handed over. -/
def State.confirmHead (s : State) (replaceFirst : Bool) : State :=
  let slot := (s.orders.at s.orders.head).slot
  let closed := s.closeHead .done
  (if replaceFirst then closed.replaceSlot slot else closed.hand [.replace slot]).offer
    (orderNotice s.orders.head slot .done s.planner.windowCount (satAdd 255 (s.comp slot).dyn.serviceCount 1))

/-- CONFIRM (R167). -/
def execConfirm (s : State) : Result :=
  if s.operating && s.listWorking then done (s.countChoice.confirmHead (Config.replaceFirst s.choices))
  else .next s

/-- DECLINE (R168): the head order closes as DECLINED; the component is left as it stands. -/
def execDecline (s : State) : Result :=
  if s.operating && s.listWorking then
    let slot := (s.orders.at s.orders.head).slot
    done
      ((s.closeHead .declined).offer
        (orderNotice s.orders.head slot .declined s.planner.windowCount (s.comp slot).dyn.serviceCount))
  else .next s

end Sys2Proof.Machine
end

