-- ==== Sys2Proof/Machine/Queries.lean ====
section
/-! DEFINITION. The Query Responder and its reports (spec/07_notices_and_the_transmit_queue.md, section 7.3 and the
layouts of section 7.4). -/

namespace Sys2Proof.Machine

open Sys2Proof

/-- What a block answers to an addressed QUERY or CONFIG: taken or refused (R108), and the state after it. -/
structure Answer where
  taken : Bool
  state : State

/-- Refused: the block does not act on the frame (R108). -/
def refuse (s : State) : Answer := { taken := false, state := s }

/-- The witness slot of a frame received: driven or left recessive by this node (R108). -/
def State.setWitness (s : State) (driven : Bool) : State := { s with bus := { s.bus with witness := driven } }

/-- The witness slot follows the block's answer (R108). -/
def Answer.witnessed (a : Answer) : State := a.state.setWitness a.taken

/-- A QUERY or CONFIG with this source reaches its block: the controller works, is not SILENCED (R114) and accepts
the source (R106). -/
def State.hearsAddressed (s : State) (source : Addr) : Bool :=
  s.running && !s.silenced && s.acceptsSource source

/-- Byte 0 of a REPORT: the kind in bits 7 to 5 and the argument in bits 4 to 0 (section 7.4). -/
def reportHead (kind : QueryKind) (arg : Nat) : Byte := BitVec.ofNat 8 (kind.code * 32 + arg)

/-- IDENTITY (R131). -/
def identityBytes (s : State) : List Byte :=
  [reportHead .identity 0, BitVec.ofNat 8 Config.familyCode, BitVec.ofNat 8 Config.revision,
    BitVec.ofNat 8 s.straps.addr.toNat, BitVec.ofNat 8 s.account.labelCommitted.toNat] ++
    be16 s.account.label.toNat ++ be16 s.account.commissionCount

/-- SECTION (R131): node state 3 OPERATING or 2 COMMISSIONING, and no section state in COMMISSIONING. -/
def sectionBytes (s : State) : List Byte :=
  [reportHead .sectionInfo 0,
    BitVec.ofNat 8 (if s.operating then 3 * 16 + s.tracker.sectionState.code else 2 * 16),
    BitVec.ofNat 8 (s.planner.window.code * 16 + s.planner.standing.code),
    BitVec.ofNat 8 s.forecast.announced.urgency, BitVec.ofNat 8 s.forecast.announced.dueCount,
    BitVec.ofNat 8 s.orders.openCount, BitVec.ofNat 8 s.bus.faultCount, 0] ++ be24 s.lines.runHours

/-- COUNTS (R132), three counters chosen by the argument, or the empty marker. -/
def countsBytes (arg : BitVec 5) (s : State) : List Byte :=
  if arg = 0 then
    [reportHead .counts 0] ++ be16 s.tracker.departed ++ be16 s.tracker.missing ++ be16 s.tracker.phantom
  else if arg = 1 then
    [reportHead .counts 1] ++ be16 s.tracker.untagged ++ be16 s.tracker.jams ++ be16 s.queue.dropped
  else [reportHead .counts arg.toNat]

/-- COMPONENT (R132): the record of a present slot in OPERATING, else the empty marker. Bit 1 of byte 1, of which the layout
says nothing, is sent as 0 (the model's choice, notes/assumptions/45.md). -/
def componentBytes (arg : BitVec 5) (s : State) : List Byte :=
  let sl := s.cfg.slot arg.toNat
  let c := s.comp arg.toNat
  if s.operating && sl.present then
    [reportHead .component arg.toNat,
      BitVec.ofNat 8 (sl.kind.code * 64 + sl.path.code * 16 + c.band.code * 4 + c.dyn.lost.toNat)] ++
      be16 c.wear ++ be16 c.hours ++ [BitVec.ofNat 8 c.urgency] ++ be16 c.dyn.slip ++
      [BitVec.ofNat 8 c.dyn.serviceCount]
  else [reportHead .component arg.toNat]

/-- ORDER (R133): the record at a ring position, or the empty marker for an EMPTY one. -/
def orderBytes (arg : BitVec 5) (s : State) : List Byte :=
  let o := s.orders.at arg.toNat
  if o.status = .empty then [reportHead .order arg.toNat]
  else
    [reportHead .order arg.toNat, BitVec.ofNat 8 o.slot, 0x01] ++ be16 o.wearAtIssue ++
      [BitVec.ofNat 8 o.urgencyAtIssue] ++ be16 o.windowAtIssue ++ [BitVec.ofNat 8 o.status.code] ++
      be16 o.windowAtClose

/-- LIST (R133): head, tail and open count. -/
def listBytes (s : State) : List Byte :=
  [reportHead .list 0, BitVec.ofNat 8 s.orders.head, BitVec.ofNat 8 s.orders.tail,
    BitVec.ofNat 8 s.orders.openCount]

/-- COMMISSION (R133): the staged-item count and the last COMMIT result. -/
def commissionBytes (s : State) : List Byte :=
  [reportHead .commission 0, BitVec.ofNat 8 s.account.stagedItems, BitVec.ofNat 8 s.account.lastCommit]

/-- The bytes of the REPORT that answers a query, from the state standing at that moment (R130). -/
def reportBytes (kind : QueryKind) (arg : BitVec 5) (s : State) : List Byte :=
  match kind with
  | .identity => identityBytes s
  | .sectionInfo => sectionBytes s
  | .counts => countsBytes arg s
  | .component => componentBytes arg s
  | .order => orderBytes arg s
  | .list => listBytes s
  | .commission => commissionBytes s

/-- Kinds answered in UNCONFIGURED (R129). -/
def QueryKind.alwaysAnswered : QueryKind → Bool
  | .identity => true
  | .commission => true
  | _ => false

/-- The Query Responder is refused a query (R129): one is pending, or the node is UNCONFIGURED and the kind is neither
IDENTITY nor COMMISSION. -/
def State.refusesQuery (s : State) (kind : QueryKind) : Bool :=
  s.query.isSome || (s.node == .unconfigured && !kind.alwaysAnswered)

/-- A query taken: it is pending, and its REPORT is built and handed to the Notice Queue at once (R130). -/
def State.takeQuery (s : State) (kind : QueryKind) (querier : Addr) (arg : BitVec 5) : State :=
  { s with query := some { querier := querier, kind := kind, arg := arg } }.offer
    { priority := 0, body := .report querier (reportBytes kind arg s) }

/-- A query is taken or refused (R129, R130). -/
def answerQuery (kind : QueryKind) (querier : Addr) (arg : BitVec 5) (s : State) : Answer :=
  if s.refusesQuery kind then refuse s else { taken := true, state := s.takeQuery kind querier arg }

/-- An addressed QUERY reaches the Query Responder; its witness slot follows the answer (R108, R129). -/
def queryCommand (kind : QueryKind) (querier : Addr) (arg : BitVec 5) (s : State) : Result :=
  if s.hearsAddressed querier then done (answerQuery kind querier arg s).witnessed else .next s

/-- QUERY_IDENTITY (R131). -/
def execQueryIdentity (querier : Addr) (arg : BitVec 5) (s : State) : Result := queryCommand .identity querier arg s

/-- QUERY_SECTION (R131). -/
def execQuerySection (querier : Addr) (arg : BitVec 5) (s : State) : Result := queryCommand .sectionInfo querier arg s

/-- QUERY_COUNTS (R132). -/
def execQueryCounts (querier : Addr) (arg : BitVec 5) (s : State) : Result := queryCommand .counts querier arg s

/-- QUERY_COMPONENT (R132). -/
def execQueryComponent (querier : Addr) (arg : BitVec 5) (s : State) : Result := queryCommand .component querier arg s

/-- QUERY_ORDER (R133). -/
def execQueryOrder (querier : Addr) (arg : BitVec 5) (s : State) : Result := queryCommand .order querier arg s

/-- QUERY_LIST (R133). -/
def execQueryList (querier : Addr) (arg : BitVec 5) (s : State) : Result := queryCommand .list querier arg s

/-- QUERY_COMMISSION (R133). -/
def execQueryCommission (querier : Addr) (arg : BitVec 5) (s : State) : Result :=
  queryCommand .commission querier arg s

end Sys2Proof.Machine
end

