-- ==== Sys2Proof/Machine/Commissioning.lean ====
section
/-! DEFINITION. Commissioning (spec/11_account_store_commissioning_and_start.md, section 11.3): the CONFIG items, the
checks of COMMIT, and its writes. -/

namespace Sys2Proof.Machine

open Sys2Proof

/-- CONFIG items are taken in COMMISSIONING, and not while the writes of a COMMIT are in progress (R178, R180). -/
def State.takesConfig (s : State) : Bool := s.node == .commissioning && s.account.writes.isEmpty

/-- Put the staging area, one more item staged (R178). -/
def State.stage (s : State) (staging : Configuration) : State :=
  { s with
    account :=
      { s.account with staging := staging, stagedItems := satAdd 255 s.account.stagedItems 1 } }

/-- A CONFIG item: refused where CONFIG is not taken or where an enumerated field is outside its codes (none), else
staged (R178). -/
def stageItem (item : Configuration → Option Configuration) (s : State) : Answer :=
  if s.takesConfig then
    match item s.account.staging with
    | some staging => { taken := true, state := s.stage staging }
    | none => refuse s
  else refuse s

/-- An addressed CONFIG reaches the Account Store; its witness slot follows the answer (R108, R178). The commands of
the CONFIG items stand for frames addressed to this node by the commissioning tool. -/
def configCommand (answer : State → Answer) (s : State) : Result :=
  if s.running && !s.silenced then done (answer s).witnessed else .next s

/-- LINE-A: K, Hz, T_watch, T_hold, clamped (R178). -/
def itemLineA (k : Byte) (hz tWatch tHold : BitVec 16) (c : Configuration) : Option Configuration :=
  some
    { c with
      k := clampTo 1 8 k.toNat, hz := clampTo 1 4095 hz.toNat, tWatch := clampTo 1 999 tWatch.toNat
      tHold := clampHold tHold.toNat }

/-- LINE-B: G, default classes, class source, announce divert, J (R178). -/
def itemLineB (g thickness mass classSource announceDivert j : Byte) (c : Configuration) : Option Configuration :=
  match classSourceOf classSource.toNat, yesNoOf announceDivert.toNat with
  | some source, some announce =>
    some
      { c with
        g := g.toNat, defThickness := BitVec.ofNat 3 (min 7 thickness.toNat)
        defMass := BitVec.ofNat 3 (min 7 mass.toNat), classSource := source, announceDivert := announce
        j := j.toNat }
  | _, _ => none

/-- LINE-C: T_transit, T_block, T_hand, clamped (R178). -/
def itemLineC (tTransit tBlock tHand : BitVec 16) (c : Configuration) : Option Configuration :=
  some
    { c with
      tTransit := clampTo 50 5000 tTransit.toNat, tBlock := clampTo 20 2000 tBlock.toNat
      tHand := clampTo 100 10000 tHand.toNat }

/-- FACTORS: the eight factors of one table, 0 TF and 1 MF (R178, section 7.4). -/
def itemFactors (table : Byte) (packed : BitVec 80) (c : Configuration) : Option Configuration :=
  match table.toNat with
  | 0 => some { c with thicknessFactors := unpackFactors packed }
  | 1 => some { c with massFactors := unpackFactors packed }
  | _ => none

/-- UPSTREAM: an entry with its address clamped to 1..62 and its exit, in use or taken out of use (R178). -/
def itemUpstream (entry inUse address exit : Byte) (c : Configuration) : Option Configuration :=
  match yesNoOf entry.toNat, yesNoOf inUse.toNat, exitOf exit.toNat with
  | some _, some used, some way =>
    some
      { c with
        upstream :=
          c.upstream.set entry.toNat
            { inUse := used, address := BitVec.ofNat 6 (clampTo 1 62 address.toNat), exit := way } }
  | _, _, _ => none

/-- INPUT: a new function for one line (R178). -/
def itemInput (line function : Byte) (c : Configuration) : Option Configuration :=
  match lineFnOf function.toNat with
  | some fn => if line.toNat < Config.lines then some { c with functions := c.functions.set line.toNat fn } else none
  | none => none

/-- SLOT: a slot present with its kind, path, L, Kc and tach line; a BELT is staged with no tach line (R178). -/
def itemSlot (slot kind path : Byte) (life : BitVec 32) (weight tach : Byte) (c : Configuration) :
    Option Configuration :=
  match kindOf kind.toNat, pathOf path.toNat, tachOf tach.toNat with
  | some kd, some pt, some line =>
    if slot.toNat < Config.slots then
      some
        { c with
          slots :=
            c.slots.set slot.toNat
              { c.slot slot.toNat with
                present := true, kind := kd, path := pt, life := clampTo 1 67108863 life.toNat
                weight := weight.toNat, tach := if kd = .belt then none else line } }
    else none
  | _, _, _ => none

/-- SLOT-B: R, D and S of a slot, present or not (R178). -/
def itemSlotB (slot : Byte) (ratio distance start : BitVec 16) (c : Configuration) : Option Configuration :=
  if slot.toNat < Config.slots then
    some
      { c with
        slots :=
          c.slots.set slot.toNat
            { c.slot slot.toNat with
              ratio := max 1 ratio.toNat, distance := distance.toNat, start := start.toNat } }
  else none

/-- CLEAR: a slot staged as not present (R178). -/
def itemClear (slot : Byte) (c : Configuration) : Option Configuration :=
  if slot.toNat < Config.slots then
    some { c with slots := c.slots.set slot.toNat { c.slot slot.toNat with present := false } }
  else none

/-- LABEL (R179): refused when a label was ever committed, or a LABEL already taken since this start. -/
def answerLabel (value : Tag) (s : State) : Answer :=
  if s.account.labelCommitted || s.account.labelTaken then refuse s
  else
    let a := stageItem (fun c => some { c with label := value, labelCommitted := true }) s
    if a.taken then
      { a with state := { a.state with account := { a.state.account with labelTaken := true } } }
    else a

/-- LINE_A (R178). -/
def execLineA (k : Byte) (hz tWatch tHold : BitVec 16) (s : State) : Result :=
  configCommand (stageItem (itemLineA k hz tWatch tHold)) s

/-- LINE_B (R178). -/
def execLineB (g thickness mass classSource announceDivert j : Byte) (s : State) : Result :=
  configCommand (stageItem (itemLineB g thickness mass classSource announceDivert j)) s

/-- LINE_C (R178). -/
def execLineC (tTransit tBlock tHand : BitVec 16) (s : State) : Result :=
  configCommand (stageItem (itemLineC tTransit tBlock tHand)) s

/-- FACTORS (R178). -/
def execFactors (table : Byte) (packed : BitVec 80) (s : State) : Result :=
  configCommand (stageItem (itemFactors table packed)) s

/-- UPSTREAM (R178). -/
def execUpstream (entry inUse address exit : Byte) (s : State) : Result :=
  configCommand (stageItem (itemUpstream entry inUse address exit)) s

/-- INPUT (R178). -/
def execInput (line function : Byte) (s : State) : Result := configCommand (stageItem (itemInput line function)) s

/-- SLOT (R178). -/
def execSlot (slot kind path : Byte) (life : BitVec 32) (weight tach : Byte) (s : State) : Result :=
  configCommand (stageItem (itemSlot slot kind path life weight tach)) s

/-- SLOT_B (R178). -/
def execSlotB (slot : Byte) (ratio distance start : BitVec 16) (s : State) : Result :=
  configCommand (stageItem (itemSlotB slot ratio distance start)) s

/-- CLEAR (R178). -/
def execClear (slot : Byte) (s : State) : Result := configCommand (stageItem (itemClear slot)) s

/-- LABEL (R179). -/
def execLabel (value : Tag) (s : State) : Result := configCommand (answerLabel value) s

/-! ### COMMIT -/

/-- Each of CLASS0 to CLASS5 on exactly one line, or none of them assigned (R180, code 11). -/
def classLinesLawful (c : Configuration) : Bool :=
  ([0, 1, 2, 3, 4, 5] : List (Fin 6)).all (fun i => c.countOf (.classLine i) == 1) ||
    ([0, 1, 2, 3, 4, 5] : List (Fin 6)).all (fun i => c.countOf (.classLine i) == 0)

/-- Every tach line named by a present slot is assigned TACH (R180, code 12). -/
def tachLinesLawful (c : Configuration) : Bool :=
  c.slots.all fun sl => !sl.present || sl.tach.all fun line => c.fn line == .tach

/-- An ENCODER is assigned if any present slot names a tach line (R180, code 13). -/
def encoderLawful (c : Configuration) : Bool :=
  c.assigned .encoder || c.slots.all fun sl => !(sl.present && sl.tach.isSome)

/-- The result of the checks of COMMIT: 1, or the lowest code of those that fail (R180). -/
def commitResult (c : Configuration) : Nat :=
  if c.countOf .entryEye ≠ 1 then 2
  else if c.countOf .straightEye ≠ 1 then 3
  else if 1 < c.countOf .divertEye then 4
  else if 1 < c.countOf .encoder then 5
  else if 12 < c.countOf .tach then 6
  else if c.countOf .motorRun ≠ 1 then 7
  else if c.countOf .maint ≠ 1 then 8
  else if c.countOf .confirm ≠ 1 then 9
  else if c.countOf .decline ≠ 1 then 10
  else if !classLinesLawful c then 11
  else if !tachLinesLawful c then 12
  else if !encoderLawful c then 13
  else 1

/-- A slot is changed: its present field differs, or it is present in both and its kind, path or L differs (R181). -/
def slotChanged (old new : SlotConfig) : Bool :=
  old.present != new.present ||
    (old.present && (old.kind != new.kind || old.path != new.path || old.life != new.life))

/-- The dynamic record of a slot after a COMMIT (R181 step 2): zeroed where the slot changed, s set to 0 where only
its tach line differs, else as loaded. -/
def commitDyn (old new : SlotConfig) (d : DynRecord) : DynRecord :=
  if slotChanged old new then DynRecord.zero
  else if old.present && old.tach != new.tach then { d with slip := 0 }
  else d

/-- The dynamic record of a slot is written by a COMMIT (R181 step 2). -/
def commitWritesDyn (old new : SlotConfig) : Bool :=
  slotChanged old new || (old.present && old.tach != new.tach)

/-- The component records as the Account Store holds them after a COMMIT (R181). One that the COMMIT writes loses its
changed mark; the marks of the order records and of the node record stand (the model's choice,
notes/assumptions/44.md). -/
def commitComps : List SlotConfig → List SlotConfig → List Component → List Component
  | old :: olds, new :: news, c :: comps =>
    { c with dyn := commitDyn old new c.dyn, marked := c.marked && !commitWritesDyn old new } ::
      commitComps olds news comps
  | _, _, comps => comps

/-- Step 2 of the writes of a COMMIT (R181), in slot order (the model's choice, notes/assumptions/37.md). -/
def commitSlotWrites : Nat → List SlotConfig → List SlotConfig → List Component → List StoreWrite
  | i, old :: olds, new :: news, c :: comps =>
    if commitWritesDyn old new then
      .component i (commitDyn old new c.dyn) :: commitSlotWrites (i + 1) olds news comps
    else commitSlotWrites (i + 1) olds news comps
  | _, _, _, _ => []

/-- Some slot is changed (R181 step 3). -/
def anySlotChanged : List SlotConfig → List SlotConfig → Bool
  | old :: olds, new :: news => slotChanged old new || anySlotChanged olds news
  | _, _ => false

/-- Step 3 of the writes of a COMMIT: every order record as EMPTY (R181), in the order of the ring's positions (the
model's choice, notes/assumptions/37.md). -/
def emptyOrderWrites : List StoreWrite := (List.range Config.slots).map fun i => .order i .empty

/-- The node record as it stands (R174); head and tail 0 once a COMMIT has emptied the stored list (R181 step 4). -/
def State.nodeRecord (s : State) : NodeRecord :=
  { runHours := s.lines.runHours, runMs := s.lines.runMs, windowCount := s.planner.windowCount
    head := if s.account.listEmptied then 0 else s.orders.head
    tail := if s.account.listEmptied then 0 else s.orders.tail
    commissionCount := s.account.commissionCount, label := s.account.label
    labelCommitted := s.account.labelCommitted }

/-- The state after a COMMIT that passes every check, before its writes: the staging area becomes the loaded
configuration, the records are those the writes will leave, the commission count rises, a newly staged label is
committed, and the result is recorded (R179, R180, R181). The count and the label stand for the reports from here on,
before the node record is written (the model's choice, notes/assumptions/38.md). -/
def State.committed (s : State) : State :=
  { s with
    cfg := s.account.staging
    cfgGood := true
    comps := commitComps s.cfg.slots s.account.staging.slots s.comps
    account :=
      { s.account with
        lastCommit := 1
        commissionCount := satAdd Config.countTop s.account.commissionCount 1
        label := if s.account.labelTaken then s.account.staging.label else s.account.label
        labelCommitted := s.account.labelTaken || s.account.labelCommitted
        listEmptied := s.account.listEmptied || anySlotChanged s.cfg.slots s.account.staging.slots } }

/-- The writes of a taken COMMIT, in order (R181). -/
def State.commitWrites (s : State) : List StoreWrite :=
  [.config s.account.staging] ++ commitSlotWrites 0 s.cfg.slots s.account.staging.slots s.comps ++
    (if anySlotChanged s.cfg.slots s.account.staging.slots then emptyOrderWrites else []) ++
    [.node s.committed.nodeRecord]

/-- Record the result of a COMMIT (R180). -/
def State.recordCommit (s : State) (result : Nat) : State :=
  { s with account := { s.account with lastCommit := result } }

/-- A COMMIT is taken or refused (R180, R181). -/
def answerCommit (s : State) : Answer :=
  if s.takesConfig then
    if commitResult s.account.staging = 1 then
      { taken := true
        state := { s.committed with account := { s.committed.account with writes := s.commitWrites } } }
    else { taken := false, state := s.recordCommit (commitResult s.account.staging) }
  else refuse s

/-- COMMIT (R180). -/
def execCommit (s : State) : Result := configCommand answerCommit s

/-- One record write, whole (R174). -/
def Store.write (st : Store) (w : StoreWrite) : Store :=
  match w with
  | .config c => { st with config := sealed Config.configurationBytes c }
  | .component i d => { st with components := st.components.set i (sealed Config.componentBytes d) }
  | .order i o => { st with orders := st.orders.set i (sealed Config.orderBytes o) }
  | .node n => { st with node := sealed Config.nodeBytes n }

/-- Several record writes, one after the other (R174). -/
def Store.writeAll (st : Store) : List StoreWrite → Store
  | [] => st
  | w :: ws => (st.write w).writeAll ws

/-- The writes of a COMMIT in progress are completed (R181). -/
def State.finishWrites (s : State) : State :=
  { s with
    account := { s.account with records := s.account.records.writeAll s.account.writes, writes := [] } }

/-- COMMIT_WRITES_DONE (R181): the writes complete, after which CONFIG items are taken again. -/
def execCommitWritesDone (s : State) : Result :=
  if s.node = .commissioning then done s.finishWrites else .next s

end Sys2Proof.Machine
end

