-- ==== Sys2Proof/Machine/Checkpoint.lean ====
section
/-! DEFINITION. The checkpoints of the store (spec/11_account_store_commissioning_and_start.md, section 11.1):
CHECKPOINT, and the record writes it is made of. -/

namespace Sys2Proof.Machine

open Sys2Proof

/-- The store after one record is written, whole and with its check word (R174, R175). -/
def State.saved (s : State) (name : RecordName) : Store :=
  match name with
  | .component i => s.account.records.write (.component i (s.comp i).dyn)
  | .order i => s.account.records.write (.order i (s.orders.at i))
  | .node => s.account.records.write (.node s.nodeRecord)

/-- The write of a record begins, which clears its mark (R175). -/
def State.unmark (s : State) (name : RecordName) : State :=
  match name with
  | .component i => { s with comps := s.comps.set i { s.comp i with marked := false } }
  | .order i => { s with orders := { s.orders with marks := s.orders.marks.set i false } }
  | .node => { s with account := { s.account with nodeMarked := false } }

/-- Write one record as it stands (R175). -/
def State.writeRecord (s : State) (name : RecordName) : State :=
  { s with account := { s.account with records := s.saved name } }.unmark name

/-- Write several records, one after the other (R174). -/
def State.writeRecords (s : State) : List RecordName → State
  | [] => s
  | name :: names => (s.writeRecord name).writeRecords names

/-- The record is marked changed (R175). -/
def State.isMarked (s : State) (name : RecordName) : Bool :=
  match name with
  | .component i => (s.comp i).marked
  | .order i => s.orders.marks.getD i false
  | .node => s.account.nodeMarked

/-- Every record that a checkpoint can write, in the order in which this model writes them
(notes/assumptions/9.md). -/
def RecordName.every : List RecordName :=
  (List.range Config.slots).map .component ++ (List.range Config.slots).map .order ++ [.node]

/-- The records marked changed (R175). -/
def State.markedRecords (s : State) : List RecordName := RecordName.every.filter s.isMarked

/-- Write every record marked changed (R14, R175). -/
def State.checkpointAll (s : State) : State := s.writeRecords s.markedRecords

/-- Put the records that a checkpoint has taken and not yet written. -/
def State.setDue (s : State) (due : List RecordName) : State := { s with account := { s.account with due := due } }

/-- CHECKPOINT (R175): every record marked changed is written, those that a checkpoint in progress has still to write
among them. Checkpoints run only in OPERATING. An idle step writes one record at a time
(Sys2Proof/Machine/Clock.lean). -/
def execCheckpoint (s : State) : Result :=
  if s.operating then done ((s.take .checkpoint).setDue []).checkpointAll else .next (s.take .checkpoint)

/-! ### Record by record -/

/-- A checkpoint begins (R175): the store takes every record marked changed. -/
def State.beginCheckpoint (s : State) : State := (s.take .checkpoint).setDue s.markedRecords

/-- The next of the records taken is written (R175). -/
def State.writeDue (s : State) : State :=
  match s.account.due with
  | [] => s
  | name :: names => (s.setDue names).writeRecord name

end Sys2Proof.Machine
end

