-- ==== Sys2Proof/Machine/Planner.lean ====
section
/-! DEFINITION. Claims, standing and maintenance windows (spec/08_claims_and_standing.md,
spec/09_maintenance_windows.md): the claim refresh, MAINT, TAKENs, CLAIMs and WITHDRAWs heard. -/

namespace Sys2Proof.Machine

open Sys2Proof

/-- Put the Service Planner's state. -/
def State.setPlanner (s : State) (p : Planner) : State := { s with planner := p }

/-! ### Claims -/

/-- After a copy: a CLAIM while the own claim is held, or one WITHDRAW when it has just ended (R135). -/
def State.claimDecision (s : State) (heldBefore : Bool) : State :=
  if s.ownClaim then s.offer s.claimNotice else if heldBefore then s.offer withdrawNotice else s

/-- CLAIM_REFRESH (R11, R90, R135). -/
def execClaimRefresh (s : State) : Result :=
  if s.operating then done (s.copyAnnounced.claimDecision s.ownClaim) else .next s

/-- A CLAIM that contradicts itself (R139): an urgency of 128 or more with a due count of 0, or a due count above
32. -/
def claimIgnored (urgency due : Nat) : Bool :=
  (decide (Config.dueUrgency ≤ urgency) && due == 0) || decide (Config.slots < due)

/-- An entry at the place its rank gives it (R138, R140). -/
def viewInsert (e : ClaimEntry) : List ClaimEntry → List ClaimEntry
  | [] => [e]
  | x :: xs => if e.before x then e :: x :: xs else x :: viewInsert e xs

/-- The view without the entry of an address (R142). -/
def viewRemove (view : List ClaimEntry) (source : Addr) : List ClaimEntry :=
  view.filter fun e => e.address != source

/-- The view after a CLAIM of urgency 128 or more (R140, R141): an update, an insertion, or a comparison with the
lowest-ranked entry of a full view. -/
def viewClaim (view : List ClaimEntry) (e : ClaimEntry) : List ClaimEntry :=
  if view.any (fun x => x.address == e.address) || decide (view.length < Config.viewPlaces) then
    viewInsert e (viewRemove view e.address)
  else
    match view.getLast? with
    | none => [e]
    | some last => if e.before last then viewInsert e view.dropLast else view

/-- Put the view and decide the standing again (R146). -/
def State.setView (s : State) (view : List ClaimEntry) : State :=
  (s.setPlanner { s.planner with view := view }).decideStanding

/-- The Service Planner takes the notices of a source (R106, R107): it works, and the source is accepted. -/
def State.plannerHears (s : State) (source : Addr) : Bool := s.operating && s.acceptsSource source

/-- A CLAIM heard that does not contradict itself (R140 to R142). -/
def State.hearClaim (s : State) (source : Addr) (urgency : Byte) : State :=
  s.setView
    (if Config.dueUrgency ≤ urgency.toNat then
      viewClaim s.planner.view { address := source, urgency := urgency.toNat, age := 0 }
    else viewRemove s.planner.view source)

/-- A WITHDRAW heard (R142). -/
def State.hearWithdraw (s : State) (source : Addr) : State := s.setView (viewRemove s.planner.view source)

/-- CLAIM_RECEIVED (R139 to R142). -/
def execClaimReceived (source : Addr) (urgency due : Byte) (_hours : BitVec 16) (s : State) : Result :=
  if s.plannerHears source && !claimIgnored urgency.toNat due.toNat then done (s.hearClaim source urgency)
  else .next s

/-- WITHDRAW_RECEIVED (R142). -/
def execWithdrawReceived (source : Addr) (s : State) : Result :=
  if s.plannerHears source then done (s.hearWithdraw source) else .next s

/-- CLAIM_ENTRY_AGE_OUT (R143): the entry of an address goes if its age has reached 100,000 ms; a renewed entry does
not (R144). -/
def execClaimEntryAgeOut (addr : Addr) (s : State) : Result :=
  if s.operating then
    done
      (s.setView
        (s.planner.view.filter fun e => !(e.address == addr && decide (Config.claimAgeMs ≤ e.age))))
  else .next s

/-! ### Windows -/

/-- An address joins the taken set: not twice, and not a ninth (R150). -/
def addTaken (set : List Addr) (a : Addr) : List Addr :=
  if set.contains a || decide (Config.takenPlaces ≤ set.length) then set else set ++ [a]

/-- The node's part in the window, from the own claim and the size of the taken set (R155). -/
def State.decideWindow (s : State) : State :=
  if !s.ownClaim then s.setPlanner { s.planner with window := .standby }
  else if s.planner.takenSet.length < s.cfg.k then
    let values : TakenValues :=
      { urgency := s.forecast.announced.urgency, dueCount := s.forecast.announced.dueCount,
        windowCount := s.planner.windowCount }
    (s.setPlanner { s.planner with window := .contending, takenValues := some values }).offer (takenNotice values)
  else s.setPlanner { s.planner with window := .deferred }

/-- Steps 1 and 2 of an opening: the hold stops and the window count rises, wrapping (R151, R154). -/
def State.countWindow (s : State) : State :=
  { s with
    planner :=
      { s.planner with
        pendingHold := none, windowCount := (s.planner.windowCount + 1) % 65536, takenValues := none,
        takenOwed := false }
    account := { s.account with nodeMarked := true } }

/-- A window opens (R154). -/
def State.openWindow (s : State) : State :=
  let copied := s.countWindow.copyAnnounced
  (if s.ownClaim && !copied.ownClaim then copied.offer withdrawNotice else copied).decideWindow

/-- MAINT_RISE (R154): a window opens in CLOSED and PENDING. -/
def execMaintRise (s : State) : Result :=
  if s.operating then
    let s1 := s.edge .maint true
    done (if s.planner.window = .closed ∨ s.planner.window = .pending then s1.openWindow else s1)
  else .next s

/-- MAINT_FALL (R160): the own TAKEN is removed or marked, the set is cleared, the hold stopped, the window CLOSED;
the Order List keeps everything. -/
def execMaintFall (s : State) : Result :=
  if s.operating then
    let s1 := (s.edge .maint false).removeTaken
    done
      (s1.setPlanner
        { s1.planner with
          takenSet := [], pendingHold := none, window := .closed, takenValues := none, takenOwed := false })
  else .next s

/-- PENDING_HOLD_EXPIRY (R153): after 5 s in PENDING the state returns to CLOSED and the set is cleared. -/
def execPendingHoldExpiry (s : State) : Result :=
  if s.operating && s.planner.window == .pending &&
      decide (Config.pendingHoldMs ≤ s.planner.pendingHold.getD 0) then
    done (s.setPlanner { s.planner with takenSet := [], pendingHold := none, window := .closed })
  else .next s

/-- What a TAKEN heard does, by window state (R152, R158). -/
def State.hearTaken (s : State) (source : Addr) : State :=
  match s.planner.window with
  | .closed =>
    s.setPlanner { s.planner with takenSet := [source], window := .pending, pendingHold := some 0 }
  | .contending =>
    if s.cfg.k ≤ (addTaken s.planner.takenSet source).length then
      (s.setPlanner
        { s.planner with
          takenSet := addTaken s.planner.takenSet source, window := .deferred, takenOwed := false }).removeTaken
    else s.setPlanner { s.planner with takenSet := addTaken s.planner.takenSet source }
  | .pending => s.setPlanner { s.planner with takenSet := addTaken s.planner.takenSet source }
  | .servicing => s.setPlanner { s.planner with takenSet := addTaken s.planner.takenSet source }
  | .deferred => s.setPlanner { s.planner with takenSet := addTaken s.planner.takenSet source }
  | .standby => s.setPlanner { s.planner with takenSet := addTaken s.planner.takenSet source }

/-- TAKEN_HEARD (R152). -/
def execTakenHeard (source : Addr) (s : State) : Result :=
  if s.plannerHears source then done (s.hearTaken source) else .next s

/-- A TAKEN evicted or dropped in CONTENDING is handed over again, with the values it had (R157). -/
def State.retryTaken (s : State) : State :=
  if s.planner.takenOwed && s.planner.window == .contending then
    match s.planner.takenValues with
    | some values => (s.setPlanner { s.planner with takenOwed := false }).offer (takenNotice values)
    | none => s
  else s

end Sys2Proof.Machine
end

