-- ==== Sys2Proof/Machine/Tracking.lean ====
section
/-! DEFINITION. Piece tracking (spec/02_piece_tracking.md): arrivals, departures, jams and their clearing, the eyes,
MOTOR_RUN, and the PASSAGEs and JAMs heard from upstream. -/

namespace Sys2Proof.Machine

open Sys2Proof

/-- The function of the line an exit eye stands on (R4). -/
def exitFn : ExitPath → LineFn
  | .straight => .straightEye
  | .divert => .divertEye

/-- The function of the line an eye stands on (R4). -/
def eyeFn : Eye → LineFn
  | .entry => .entryEye
  | .straight => .straightEye
  | .divert => .divertEye

/-- The tag the node assigns itself (R25). -/
def State.ownTag (s : State) : Tag :=
  BitVec.ofNat 16 (s.straps.addr.toNat * Config.tagSequences + s.tracker.tagSeq)

/-- The tag sequence moves on, wrapping after 1023 (R25). -/
def nextTagSeq (seq : Nat) : Nat := (seq + 1) % Config.tagSequences

/-- The stale sweep (R21): entries older than T_hand go, each counted as missing. -/
def Tracker.sweep (t : Tracker) (tHand : Nat) : Tracker :=
  { t with
    inbound := t.inbound.filter fun e => decide (e.age ≤ tHand)
    missing := satAdd Config.countTop t.missing (t.inbound.countP fun e => decide (tHand < e.age)) }

/-- The thickness class of a class latch: 4 × CLASS2 + 2 × CLASS1 + CLASS0 (R7). -/
def latchThickness (latch : BitVec 6) : PieceClass := latch.extractLsb' 0 3

/-- The mass class of a class latch: 4 × CLASS5 + 2 × CLASS4 + CLASS3 (R7). -/
def latchMass (latch : BitVec 6) : PieceClass := latch.extractLsb' 3 3

/-- The classes of a new piece record, thickness and mass (R24). -/
def chooseClasses (cfg : Configuration) (latch : BitVec 6) (entry : Option InboundEntry) : PieceClass × PieceClass :=
  match cfg.classSource, entry with
  | .upstream, some e => (e.thickness, e.mass)
  | .upstream, none => (cfg.defThickness, cfg.defMass)
  | .classLines, some e => (e.thickness, e.mass)
  | .classLines, none =>
    if cfg.classLinesAssigned then (latchThickness latch, latchMass latch) else (cfg.defThickness, cfg.defMass)
  | .default, _ => (cfg.defThickness, cfg.defMass)

/-- The JAM notice of a jam: class 0, priority 0 (R34). -/
def jamNotice (cause : JamCause) (t : Tracker) : Notice :=
  { priority := 0
    body := .jam cause t.pieces.length (match t.pieces with | [] => 0 | p :: _ => p.tag) }

/-- The Piece Tracker at entry to JAMMED: the list emptied, the count raised, no blocked time kept (R33, R34). -/
def Tracker.jammed (t : Tracker) (clear : Bool) : Tracker :=
  { t with
    sectionState := .jammed
    pieces := []
    entryBlocked := 0
    straightBlocked := 0
    divertBlocked := 0
    clearHold := if clear then some 0 else none
    jams := satAdd Config.countTop t.jams 1 }

/-- The jam actions (R34): JAMMED, a JAM notice, a jam surcharge request, the list emptied, the count raised; the
clear hold starts if the clear condition already holds (R36). -/
def State.jam (s : State) (cause : JamCause) : State :=
  ({ s with tracker := s.tracker.jammed s.clearCondition }.offer (jamNotice cause s.tracker)).hand [.jamSurcharge]

/-- The oldest record's transit age is above T_transit while RUNNING (R17, R32). -/
def State.transitDue (s : State) : Bool :=
  s.tracker.sectionState == .running &&
    (match s.tracker.pieces with
     | [] => false
     | p :: _ => decide (s.cfg.tTransit < p.age))

/-- Some eye's blocked time is above T_block while RUNNING (R17, R33). -/
def State.blockedDue (s : State) : Bool :=
  s.tracker.sectionState == .running &&
    (decide (s.cfg.tBlock < s.tracker.entryBlocked) || decide (s.cfg.tBlock < s.tracker.straightBlocked) ||
      decide (s.cfg.tBlock < s.tracker.divertBlocked))

/-! ### Arrivals -/

/-- The piece record of an arrival and the tracker after it (R23 steps 3 to 5, R24, R25), in a tracker already
swept. -/
def Tracker.enter (t : Tracker) (cfg : Configuration) (latch : BitVec 6) (own : Tag) : Tracker :=
  match t.inbound with
  | e :: rest =>
    { t with
      inbound := rest
      pieces := t.pieces ++
        [{ tag := e.tag, thickness := (chooseClasses cfg latch (some e)).1,
           mass := (chooseClasses cfg latch (some e)).2, age := 0 }] }
  | [] =>
    { t with
      tagSeq := nextTagSeq t.tagSeq
      untagged := satAdd Config.countTop t.untagged 1
      pieces := t.pieces ++
        [{ tag := own, thickness := (chooseClasses cfg latch none).1, mass := (chooseClasses cfg latch none).2,
           age := 0 }] }

/-- The tracker's part of an arrival in RUNNING or STOPPED (R23, R33). -/
def State.arrive (s : State) (latch : BitVec 6) : State :=
  let swept := { s.tracker with entryBlocked := 0 }.sweep s.cfg.tHand
  if Config.piecePlaces ≤ swept.pieces.length then
    { s with tracker := { swept with inbound := swept.inbound.drop 1 } }.jam .crowded
  else { s with tracker := swept.enter s.cfg latch s.ownTag }

/-- ARRIVAL (R23). In JAMMED it is ignored but for the clear hold, which its level breaks (R35, R36). -/
def execArrival (latch : BitVec 6) (s : State) : Result :=
  if s.operating then
    if s.tracker.sectionState = .jammed then done (s.edge .entryEye true).reviewHold
    else done ((s.edge .entryEye true).arrive latch)
  else .next s

/-! ### Departures -/

/-- The blocked time of an exit eye starts at its rising edge (R28, R33). -/
def Tracker.startBlocked (t : Tracker) (exit : ExitPath) : Tracker :=
  match exit with
  | .straight => { t with straightBlocked := 0 }
  | .divert => { t with divertBlocked := 0 }

/-- A departure by this exit is announced downstream (R29). -/
def announces (cfg : Configuration) (exit : ExitPath) : Bool :=
  match exit with
  | .straight => true
  | .divert => cfg.announceDivert

/-- The PASSAGE of a departure: class 1, priority 0 (R29, R30). -/
def passageNotice (tag : Tag) (thickness mass : PieceClass) (exit : ExitPath) (phantom : Bool) : Notice :=
  { priority := 0, body := .passage tag thickness mass exit phantom }

/-- A PASSAGE where the exit is announced (R29). -/
def State.announce (s : State) (tag : Tag) (thickness mass : PieceClass) (exit : ExitPath) (phantom : Bool) : State :=
  if announces s.cfg exit then s.offer (passageNotice tag thickness mass exit phantom) else s

/-- A departure that finds a record (R28): the oldest goes, a piece credit is requested, a PASSAGE is queued, the
departed count rises; a new head already above T_transit in RUNNING jams on that removal (R31, R32). -/
def State.departReal (s : State) (p : PieceRecord) (rest : List PieceRecord) (exit : ExitPath) : State :=
  let s1 :=
    { s with
      tracker := { s.tracker with pieces := rest, departed := satAdd Config.countTop s.tracker.departed 1 } }
  let s2 := (s1.announce p.tag p.thickness p.mass exit false).hand [.pieceCredit p.thickness p.mass exit false]
  if s2.transitDue then s2.jam .transit else s2

/-- A phantom departure (R30): credit at the default classes, a PASSAGE with an own-assigned tag where the exit is
announced, and the phantom count. -/
def State.departPhantom (s : State) (exit : ExitPath) : State :=
  let tracker :=
    { s.tracker with
      phantom := satAdd Config.countTop s.tracker.phantom 1
      tagSeq := if announces s.cfg exit then nextTagSeq s.tracker.tagSeq else s.tracker.tagSeq }
  ({ s with tracker := tracker }.announce s.ownTag s.cfg.defThickness s.cfg.defMass exit true).hand
    [.pieceCredit s.cfg.defThickness s.cfg.defMass exit true]

/-- The tracker's part of a departure in RUNNING or STOPPED (R28, R30). -/
def State.depart (s : State) (exit : ExitPath) : State :=
  let s1 := { s with tracker := s.tracker.startBlocked exit }
  match s.tracker.pieces with
  | p :: rest => s1.departReal p rest exit
  | [] => s1.departPhantom exit

/-- DEPARTURE (R28). With no DIVERT_EYE assigned there is no departure by the divert exit (R4). -/
def execDeparture (exit : ExitPath) (s : State) : Result :=
  if s.operating && s.cfg.assigned (exitFn exit) then
    if s.tracker.sectionState = .jammed then done (s.edge (exitFn exit) true).reviewHold
    else done ((s.edge (exitFn exit) true).depart exit)
  else .next s

/-! ### Eyes and motor -/

/-- The blocked time of an eye returns to 0 at its falling edge (R33). -/
def Tracker.endBlocked (t : Tracker) (eye : Eye) : Tracker :=
  match eye with
  | .entry => { t with entryBlocked := 0 }
  | .straight => { t with straightBlocked := 0 }
  | .divert => { t with divertBlocked := 0 }

/-- EYE_CLEAR (R4, R33). In JAMMED no blocked time is kept, and the clear hold may begin (R35, R36). -/
def execEyeClear (eye : Eye) (s : State) : Result :=
  if s.operating && s.cfg.assigned (eyeFn eye) then
    let s1 := s.edge (eyeFn eye) false
    done { s1 with tracker := s1.tracker.endBlocked eye }.reviewHold
  else .next s

/-- MOTOR_START (R5, R17): STOPPED goes to RUNNING, JAMMED stays and its clear hold is broken (R36), and the start
surcharge is requested (R67). -/
def execMotorStart (s : State) : Result :=
  if s.operating then
    let s1 := (s.edge .motorRun true).reviewHold
    let s2 :=
      if s1.tracker.sectionState = .stopped then
        { s1 with tracker := { s1.tracker with sectionState := .running } }
      else s1
    done (s2.hand [.startSurcharge])
  else .next s

/-- MOTOR_STOP (R5, R17): RUNNING goes to STOPPED; in JAMMED the clear hold may begin (R36). -/
def execMotorStop (s : State) : Result :=
  if s.operating then
    let s1 := (s.edge .motorRun false).reviewHold
    done
      (if s1.tracker.sectionState = .running then
        { s1 with tracker := { s1.tracker with sectionState := .stopped } }
      else s1)
  else .next s

/-! ### Jams -/

/-- TRANSIT_JAM (R32): the jam actions if the oldest record's age still is above T_transit in RUNNING (R31, R37). -/
def execTransitJam (s : State) : Result :=
  if s.operating && s.transitDue then done (s.jam .transit) else .next s

/-- BLOCKED_JAM (R33): the jam actions if some eye's blocked time is above T_block in RUNNING (R37). -/
def execBlockedJam (s : State) : Result :=
  if s.operating && s.blockedDue then done (s.jam .blocked) else .next s

/-- CLEAR_HOLD_COMPLETE (R36): once the clear condition has held for 2 s the section goes to STOPPED. -/
def execClearHoldComplete (s : State) : Result :=
  if s.operating && s.tracker.sectionState == .jammed && s.clearCondition &&
      decide (Config.clearHoldMs ≤ s.tracker.clearHold.getD 0) then
    done
      { s with
        tracker :=
          { s.tracker with
            sectionState := .stopped, pieces := [], entryBlocked := 0, straightBlocked := 0, divertBlocked := 0,
            clearHold := none } }
  else .next s

/-! ### Notices from upstream -/

/-- The configuration holds an upstream entry of this source and exit (R19). -/
def Configuration.hasUpstream (c : Configuration) (source : Addr) (exit : ExitPath) : Bool :=
  c.upstream.any fun u => u.inUse && u.address == source && u.exit == exit

/-- The configuration holds an upstream entry of this source (R22). -/
def Configuration.hasUpstreamSource (c : Configuration) (source : Addr) : Bool :=
  c.upstream.any fun u => u.inUse && u.address == source

/-- An inbound entry joins at the tail; a full queue loses its oldest, counted as missing (R19, R20). -/
def Tracker.append (t : Tracker) (e : InboundEntry) : Tracker :=
  if Config.inboundPlaces ≤ t.inbound.length then
    { t with inbound := t.inbound.drop 1 ++ [e], missing := satAdd Config.countTop t.missing 1 }
  else { t with inbound := t.inbound ++ [e] }

/-- The Piece Tracker takes a PASSAGE heard (R19): it works, and an upstream entry has this source and exit. -/
def State.takesPassage (s : State) (source : Addr) (exit : ExitPath) : Bool :=
  s.operating && s.acceptsSource source && s.cfg.hasUpstream source exit

/-- The Piece Tracker takes a JAM heard (R22): it works, and an upstream entry has this source. -/
def State.takesJam (s : State) (source : Addr) : Bool :=
  s.operating && s.acceptsSource source && s.cfg.hasUpstreamSource source

/-- A PASSAGE heard (R19, R20). -/
def State.hearPassage (s : State) (source : Addr) (tag : Tag) (thickness mass : PieceClass) : State :=
  { s with
    tracker := s.tracker.append { source := source, tag := tag, thickness := thickness, mass := mass, age := 0 } }

/-- A JAM heard: every inbound entry of its source goes, uncounted (R22). -/
def State.hearJam (s : State) (source : Addr) : State :=
  { s with tracker := { s.tracker with inbound := s.tracker.inbound.filter fun e => e.source != source } }

/-- PASSAGE_RECEIVED (R19, R20): ignored unless an upstream entry has its source and exit. -/
def execPassageReceived (source : Addr) (tag : Tag) (thickness mass : PieceClass) (exit : ExitPath) (_phantom : Bool)
    (s : State) : Result :=
  if s.takesPassage source exit then done (s.hearPassage source tag thickness mass) else .next s

/-- JAM_RECEIVED (R22). -/
def execJamReceived (source : Addr) (s : State) : Result :=
  if s.takesJam source then done (s.hearJam source) else .next s

end Sys2Proof.Machine
end

