-- ==== Sys2Proof/Machine/Clock.lean ====
section
/-! DEFINITION. What a step does on an empty queue (notes/assumptions/1.md): the block goes on with a checkpoint, or
takes the oldest work handed over and not yet taken, and with none outstanding one millisecond of the 1 ms timebase
passes (R9, R12): level lines are filtered (R2, R14), timers and ages advance, and the timed commands that fall due
join the queue. -/

namespace Sys2Proof.Machine

open Sys2Proof

/-! ### Level filters -/

/-- One millisecond of a filter (R2): how long the raw level has stood against the filtered one. -/
def LevelLine.sample (l : LevelLine) (raw : Bool) (filterMs : Nat) : LevelLine :=
  if raw = l.level then { l with held := 0 } else { l with held := min filterMs (l.held + 1) }

/-- The filter time has run out: a filtered edge is due (R2). -/
def LevelLine.edgeDue (l : LevelLine) (filterMs : Nat) : Bool := decide (filterMs ≤ l.held)

/-- A line whose filtered level simply follows, with no command of its own for the change (CONFIRM, DECLINE and the
class lines). -/
def LevelLine.follow (l : LevelLine) (raw : Bool) (filterMs : Nat) : LevelLine :=
  if (l.sample raw filterMs).edgeDue filterMs then { level := raw, held := 0 } else l.sample raw filterMs

/-- The raw level on the line of a function; low where no line carries it. -/
def State.raw (s : State) (fn : LineFn) : Bool :=
  (s.cfg.functions.zip s.pins.lines).any fun p => p.1 == fn && p.2

/-- One millisecond of the class-line filters (R2, R7). -/
def followClasses (s : State) : List LevelLine :=
  (([0, 1, 2, 3, 4, 5] : List (Fin 6)).zip s.lines.levels.classes).map fun p =>
    p.2.follow (s.raw (.classLine p.1)) Config.fastFilterMs

/-- One millisecond of every level filter (R2). The levels of the eyes, MOTOR_RUN and MAINT change with their edge
commands. -/
def State.filterLines (s : State) : Levels :=
  let l := s.lines.levels
  { entryEye := l.entryEye.sample (s.raw .entryEye) Config.fastFilterMs
    straightEye := l.straightEye.sample (s.raw .straightEye) Config.fastFilterMs
    divertEye := l.divertEye.sample (s.raw .divertEye) Config.fastFilterMs
    motorRun := l.motorRun.sample (s.raw .motorRun) Config.slowFilterMs
    maint := l.maint.sample (s.raw .maint) Config.slowFilterMs
    confirm := l.confirm.follow (s.raw .confirm) Config.slowFilterMs
    decline := l.decline.follow (s.raw .decline) Config.slowFilterMs
    classes := followClasses s }

/-- The class latch standing in the filtered class-line levels: bit i is CLASS i (R7). -/
def latchOf (classes : List LevelLine) : BitVec 6 :=
  BitVec.ofNat 6 (classes.foldr (fun l value => 2 * value + l.level.toNat) 0)

/-- The command of a filtered edge that is due. -/
def edgeCommand (l : LevelLine) (filterMs : Nat) (rise fall : Instr) : List Instr :=
  if l.edgeDue filterMs then [if l.level then fall else rise] else []

/-- The edges due after the filters have taken a millisecond (R2, R4 to R6), given the levels before it. A class line
whose filter follows in the very millisecond of an arrival is latched at its new level (the model's choice,
notes/assumptions/39.md). -/
def edgesDue (before after : Levels) : List Instr :=
  edgeCommand after.entryEye Config.fastFilterMs (.arrival (latchOf after.classes)) (.eyeClear .entry) ++
    edgeCommand after.straightEye Config.fastFilterMs (.departure .straight) (.eyeClear .straight) ++
    edgeCommand after.divertEye Config.fastFilterMs (.departure .divert) (.eyeClear .divert) ++
    edgeCommand after.motorRun Config.slowFilterMs .motorStart .motorStop ++
    edgeCommand after.maint Config.slowFilterMs .maintRise .maintFall ++
    (if after.confirm.level && !before.confirm.level then [.confirm] else []) ++
    (if after.decline.level && !before.decline.level then [.decline] else [])

/-! ### Ages and timers -/

/-- One millisecond of the Piece Tracker: inbound ages always, transit ages and blocked times in RUNNING, the clear
hold (R18, R26, R33, R36). The section state and the levels that count are those before the edges that the millisecond
brings at its end, as for run-ms (notes/assumptions/32.md). -/
def Tracker.tick (t : Tracker) (levels : Levels) : Tracker :=
  let run := t.sectionState == .running
  { t with
    inbound := t.inbound.map fun e => { e with age := e.age + 1 }
    pieces := if run then t.pieces.map fun p => { p with age := p.age + 1 } else t.pieces
    entryBlocked := if run && levels.entryEye.level then t.entryBlocked + 1 else t.entryBlocked
    straightBlocked := if run && levels.straightEye.level then t.straightBlocked + 1 else t.straightBlocked
    divertBlocked := if run && levels.divertEye.level then t.divertBlocked + 1 else t.divertBlocked
    clearHold := t.clearHold.map fun n => min Config.clearHoldMs (n + 1) }

/-- One millisecond of the Service Planner: entry ages and the PENDING hold (R143, R153). -/
def Planner.tick (p : Planner) : Planner :=
  { p with
    view := p.view.map fun e => { e with age := min Config.claimAgeMs (e.age + 1) }
    pendingHold := p.pendingHold.map fun n => min Config.pendingHoldMs (n + 1) }

/-- This millisecond would take run-ms to 3,600,000 (R12). -/
def LineUnit.hourDue (l : LineUnit) : Bool :=
  l.levels.motorRun.level && decide (Config.runHourMs ≤ l.runMs + 1)

/-- One millisecond of run time (R12): the counters go up while MOTOR_RUN is high. An edge that the filters bring at the
end of the millisecond belongs to the next one (notes/assumptions/32.md). -/
def LineUnit.run (l : LineUnit) : LineUnit :=
  if l.hourDue then l.endHour
  else if l.levels.motorRun.level then { l with runMs := l.runMs + 1 }
  else l

/-- One millisecond of the section clock (R9, R11, R12). -/
def LineUnit.tick (l : LineUnit) (after : Levels) : LineUnit :=
  { l.run with
    levels := after
    sampleMs := (l.sampleMs + 1) % Config.samplePeriodMs
    refreshMs := (l.refreshMs + 1) % Config.refreshMs }

/-- One millisecond of OPERATING. A run-hour boundary goes to the Forecast Unit, which has lost it if RESET falls before
it takes it (R12, R95). -/
def State.tickOperating (s : State) : State :=
  { s with
    lines := s.lines.tick s.filterLines
    tracker := s.tracker.tick s.lines.levels
    planner := s.planner.tick
    account := { s.account with nodeMarked := s.account.nodeMarked || s.lines.levels.motorRun.level }
    handed := s.handed ++ (if s.lines.hourDue then [.runHourBoundary] else []) }

/-- The timed commands due after a millisecond of OPERATING. -/
def timersDue (t : State) : List Instr :=
  (if t.transitDue then [.transitJam] else []) ++ (if t.blockedDue then [.blockedJam] else []) ++
    (if t.tracker.clearHold = some Config.clearHoldMs then [.clearHoldComplete] else []) ++
    ((t.planner.view.filter fun e => decide (Config.claimAgeMs ≤ e.age)).map fun e => .claimEntryAgeOut e.address) ++
    (if t.planner.pendingHold = some Config.pendingHoldMs then [.pendingHoldExpiry] else []) ++
    (if t.lines.sampleMs = 0 then [.samplePeriodEnd] else []) ++
    (if t.lines.refreshMs = 0 then [.claimRefresh] else [])

/-- One millisecond of what runs in every state with power: the RESET filter, MUTE's second and the lamp's phase (R14,
R15, R112). -/
def State.tickAlways (s : State) : State :=
  { s with
    resetLine := s.resetLine.sample s.pins.reset Config.slowFilterMs
    bus := { s.bus with muteMs := s.bus.muteMs.map fun n => min Config.muteMs (n + 1) }
    out := { s.out with lampPhase := (s.out.lampPhase + 1) % Config.lampPeriodMs } }

/-- The commands due in every state with power. -/
def alwaysDue (t : State) : List Instr :=
  edgeCommand t.resetLine Config.slowFilterMs (.resetRise t.pins.straps) .resetFall ++
    (if t.bus.muteMs = some Config.muteMs then [.muteEnd] else [])

/-- One millisecond. Without power nothing happens. -/
def State.tick (s : State) : State :=
  if s.power then
    let t := s.tickAlways
    if s.operating then
      { t.tickOperating with
        pending :=
          s.pending ++ edgesDue s.lines.levels s.filterLines ++ timersDue t.tickOperating ++ alwaysDue t }
    else { t with pending := s.pending ++ alwaysDue t }
  else s

/-- The block left to itself: it writes the next record that a checkpoint has taken, or takes the oldest work handed
over, or lets a millisecond pass. A CHECKPOINT handed over begins here and is written record by record, so that other
events can come between two of its writes (R175). -/
def State.idle (s : State) : State :=
  if s.operating && !s.account.due.isEmpty then s.writeDue
  else
    match s.handed with
    | work :: _ =>
      if s.operating && work == .checkpoint then s.beginCheckpoint
      else { s with pending := s.pending ++ [work] }
    | [] => s.tick

end Sys2Proof.Machine
end

