-- ==== Sys2Proof/Machine/Bus.lean ====
section
/-! DEFINITION. The Line Bus Controller (spec/06_the_line_bus.md): the view of the bus, starting and joining, losing,
aborting and completing a frame, receiving, witnessing and handing on, MUTE and SILENCED. -/

namespace Sys2Proof.Machine

open Sys2Proof

/-- Put the controller's state. -/
def State.setBus (s : State) (b : BusController) : State := { s with bus := b }

/-- The activity once the line has fallen silent: a frame being received ended without its last cells, and a broken
frame is over (R105). -/
def Activity.atIdle : Activity → Activity
  | .sending n => .sending n
  | .waiting => .waiting
  | .receiving => .waiting
  | .awaitingIdle => .waiting

/-- BUS_IDLE (R99): ten bit times of recessive line. It does not come while the node itself sends. -/
def execBusIdle (s : State) : Result :=
  if s.running && !s.inFlight.isSome then
    done (s.setBus { s.bus with view := .idle, activity := s.bus.activity.atIdle, seenIdle := true })
  else .next s

/-- A dominant level is seen, and another station's frame begins (R99, R106). A lead pulse that the node joins is
FRAME_JOIN alone; a FRAME_JOIN after BUS_BUSY for the same pulse finds the node receiving (the model's choice,
notes/assumptions/35.md). -/
def State.beginReception (s : State) : State :=
  s.setBus
    { s.bus with
      view := .busy, activity := if s.bus.activity = .waiting then .receiving else s.bus.activity }

/-- BUS_BUSY (R99): the first dominant level seen while the view is IDLE. -/
def execBusBusy (s : State) : Result :=
  if s.running && s.bus.view == .idle then done s.beginReception else .next s

/-- The head notice goes into transmission; the lead cell is the first dominant level of the frame (R99, R100,
R122). -/
def State.beginSending (s : State) : State :=
  match s.queue.waiting with
  | n :: rest => (s.setWaiting rest).setBus { s.bus with view := .busy, activity := .sending n }
  | [] => s

/-- The node may start or join: it works, is in neither MUTE nor SILENCED, does nothing else on the line, and a
notice waits (R100). -/
def State.maySend (s : State) : Bool :=
  s.running && s.bus.mode == .active && s.bus.activity == .waiting && !s.queue.waiting.isEmpty

/-- FRAME_START (R100): with the right to start, the head notice is in transmission. -/
def execFrameStart (s : State) : Result :=
  if s.maySend && s.bus.view == .idle then done s.beginSending else .next s

/-- FRAME_JOIN (R100): after nine bit times of silence the node joins the frame that begins; otherwise it receives it
(R106). -/
def execFrameJoin (silence : Nat) (s : State) : Result :=
  if s.maySend && s.bus.seenIdle && decide (Config.joinSilence ≤ silence) then done s.beginSending
  else if s.running && s.bus.activity == .waiting then done s.beginReception
  else .next s

/-- The bit the node sends in a cell of its frame (R97, R101); none past the end of the check word. -/
def State.sentBit (s : State) (n : Notice) (cell : Nat) : Option Bool := (n.cells s.straps.addr)[cell]?

/-- ARBITRATION_LOST (R103): in a header cell the node sends 1 and reads 0. It receives the rest of the frame; its
notice stays queued. -/
def execArbitrationLost (cell : Nat) (s : State) : Result :=
  match s.inFlight with
  | none => .next s
  | some n =>
    if decide (1 ≤ cell ∧ cell ≤ 17) && s.sentBit n cell == some true then
      done ((s.setBus { s.bus with activity := .receiving }).takeBack n)
    else .next s

/-- A cell in which the node, reading a level other than the one it sent, aborts: any cell it drives dominant, or any
cell after the header (R104). -/
def State.abortsAt (s : State) (n : Notice) (cell : Nat) : Bool :=
  match s.sentBit n cell with
  | none => false
  | some sent => !sent || decide (17 < cell)

/-- The controller after an abort (R104, R111, R112): one more fault, and MUTE at 32. -/
def BusController.aborted (b : BusController) : BusController :=
  if Config.faultTop ≤ b.faultCount + 1 then
    { b with activity := .receiving, faultCount := Config.faultTop, mode := .mute, muteMs := some 0 }
  else { b with activity := .receiving, faultCount := b.faultCount + 1 }

/-- FRAME_ABORT (R104): the node stops driving, counts a fault and receives; its notice stays queued. -/
def execFrameAbort (cell : Nat) (s : State) : Result :=
  match s.inFlight with
  | none => .next s
  | some n => if s.abortsAt n cell then done ((s.setBus s.bus.aborted).takeBack n) else .next s

/-- The own TAKEN completes in CONTENDING without a removal mark: the own address joins the set, the state is
SERVICING, and the Order List appends (R156, R165). -/
def State.takenCompleted (s : State) : State :=
  if s.planner.window = .contending then
    (s.setPlanner
      { s.planner with
        takenSet := addTaken s.planner.takenSet s.straps.addr, window := .servicing, takenOwed := false }).appendDue
  else s

/-- The block that queued a completed notice is told (R109, R126). -/
def State.tellCompleted (s : State) (n : Notice) (marked : Bool) : State :=
  match n.body with
  | .taken _ => if marked then s else s.takenCompleted
  | .report _ _ => { s with query := none }
  | _ => s

/-- The notice that completed leaves the queue, and the held successor joins in its place (R122, R123, R125). -/
def State.dropCompleted (s : State) : State :=
  { s with
    queue :=
      { s.queue with
        waiting :=
          (match s.queue.held with
           | some successor => joinAfter s.straps.addr successor s.queue.waiting
           | none => s.queue.waiting)
        held := none
        removalMark := false } }

/-- FRAME_COMPLETE (R109): the notice is removed and its block told, witnessed or not, and the fault count falls by
1. -/
def execFrameComplete (_witnessed : Bool) (s : State) : Result :=
  match s.inFlight with
  | none => .next s
  | some n =>
    done
      ((((s.setBus { s.bus with activity := .waiting, faultCount := s.bus.faultCount - 1 }).dropCompleted).tellCompleted
        n s.queue.removalMark))

/-! ### Receiving -/

/-- Entry to SILENCED (R114, R126, R127): the queue and the held successor emptied without count; a contending node
whose TAKEN goes is deferred (R157), and a pending query whose REPORT goes ends (R130). -/
def State.enterSilenced (s : State) : State :=
  { s with
    bus := { s.bus with mode := .silenced }
    queue := { s.queue with waiting := [], held := none, removalMark := false }
    planner :=
      if s.planner.window = .contending ∧ (s.queue.waiting.any fun m => m.body.isTaken) = true then
        { s.planner with window := .deferred, takenOwed := false }
      else s.planner
    query := if (s.queue.waiting.any fun m => m.body.isReport) = true then none else s.query }

/-- The four conditions of acceptance that remain once the frame is whole (R106). -/
def State.accepts (s : State) (f : Frame) : Bool :=
  f.checkOk && (f.dest == 0 || f.dest == s.straps.addr) && s.acceptsSource f.source

/-- A PASSAGE, JAM, TAKEN, CLAIM or WITHDRAW, read from its class and payload and taken by its block (R107, R120). A
frame of another class or length is not read as one of these kinds and changes nothing. -/
def State.hearNotice (s : State) (f : Frame) : State :=
  match f.cls, f.payload with
  | 0, [_, _, _, _] => if s.takesJam f.source then s.hearJam f.source else s
  | 1, [b0, b1, b2] =>
    if s.takesPassage f.source (if b2.getLsbD 1 then .divert else .straight) then
      s.hearPassage f.source (word16 b0 b1) (b2.extractLsb' 5 3) (b2.extractLsb' 2 3)
    else s
  | 2, [_, _, _, _] => if s.plannerHears f.source then s.hearTaken f.source else s
  | 3, [b0, b1, _, _] =>
    if s.plannerHears f.source && !claimIgnored b0.toNat b1.toNat then s.hearClaim f.source b0 else s
  | 3, [] => if s.plannerHears f.source then s.hearWithdraw f.source else s
  | _, _ => s

/-- The Query Responder's answer to the payload of an addressed QUERY (R129): a wrong length or an unlisted kind is
refused. -/
def answerQueryFrame (querier : Addr) (payload : List Byte) (s : State) : Answer :=
  match payload with
  | [b] =>
    match queryKindOf (b.toNat / 32) with
    | some kind => answerQuery kind querier (b.extractLsb' 0 5) s
    | none => refuse s
  | _ => refuse s

/-- The Account Store's answer to the payload of an addressed CONFIG (R178, section 7.4): an unlisted item code or
another length than the item's is refused. -/
def answerConfigFrame (payload : List Byte) (s : State) : Answer :=
  match payload with
  | [] => refuse s
  | code :: bytes =>
    match code.toNat, bytes with
    | 0x01, [k, h1, h0, w1, w0, t1, t0] =>
      stageItem (itemLineA k (word16 h1 h0) (word16 w1 w0) (word16 t1 t0)) s
    | 0x02, [g, t, m, c, a, j] => stageItem (itemLineB g t m c a j) s
    | 0x03, [a1, a0, b1, b0, c1, c0] => stageItem (itemLineC (word16 a1 a0) (word16 b1 b0) (word16 c1 c0)) s
    | 0x04, [t, b9, b8, b7, b6, b5, b4, b3, b2, b1, b0] =>
      stageItem (itemFactors t (word80 [b9, b8, b7, b6, b5, b4, b3, b2, b1, b0])) s
    | 0x05, [e, u, a, x] => stageItem (itemUpstream e u a x) s
    | 0x06, [line, fn] => stageItem (itemInput line fn) s
    | 0x07, [slot, kd, pt, l3, l2, l1, l0, kc, line] =>
      stageItem (itemSlot slot kd pt (word32 l3 l2 l1 l0) kc line) s
    | 0x08, [slot, r1, r0, d1, d0, s1, s0] =>
      stageItem (itemSlotB slot (word16 r1 r0) (word16 d1 d0) (word16 s1 s0)) s
    | 0x09, [slot] => stageItem (itemClear slot) s
    | 0x0A, [v1, v0] => answerLabel (word16 v1 v0) s
    | 0x0B, [] => answerCommit s
    | _, _ => refuse s

/-- An accepted frame is taken by the block that owns its class, before any later frame (R107), and its witness slot
driven (R108, R114). The witness slot of an addressed QUERY or CONFIG follows the block's answer; a SILENCED controller
drops it. -/
def State.handOn (s : State) (f : Frame) : State :=
  if f.cls = 5 ∨ f.cls = 7 then
    if f.dest = 0 then s.setWitness (!s.silenced)
    else if s.silenced then s
    else if f.cls = 5 then (answerQueryFrame f.source f.payload s).witnessed
    else (answerConfigFrame f.payload s).witnessed
  else (s.hearNotice f).setWitness (!s.silenced)

/-- A frame received whole (R106, R113): an address clash, an accepted frame, or one that is dropped. -/
def State.receive (s : State) (f : Frame) : State :=
  if f.checkOk && f.source == s.straps.addr then (if s.silenced then s else s.enterSilenced)
  else if s.accepts f then s.handOn f
  else s

/-- The controller at the end of a reception: the line was busy, and no witness is driven yet; after a broken frame it
waits for IDLE (R105). -/
def State.endReception (s : State) (activity : Activity) : State :=
  s.setBus { s.bus with view := .busy, activity := activity, witness := false }

/-- The controller reads a frame that begins: it works, does not send, and is not waiting for IDLE after a broken
frame (R105, R106). -/
def State.reads (s : State) : Bool :=
  s.running && (s.bus.activity == .waiting || s.bus.activity == .receiving)

/-- FRAME_RECEIVED (R105, R106): broken, dropped, a clash, or accepted and handed on. -/
def execFrameReceived (cells : List Bool) (s : State) : Result :=
  if s.reads then
    match parseFrame cells with
    | none => done (s.endReception .awaitingIdle)
    | some f => done ((s.endReception .waiting).receive f)
  else .next s

/-- MUTE_END (R112): after the 1 s the fault count is 0, and the controller leaves MUTE unless it is SILENCED. -/
def execMuteEnd (s : State) : Result :=
  if s.running && decide (Config.muteMs ≤ s.bus.muteMs.getD 0) then
    done
      (s.setBus
        { s.bus with
          mode := if s.bus.mode = .mute then .active else s.bus.mode, muteMs := none, faultCount := 0 })
  else .next s

end Sys2Proof.Machine
end

