-- ==== Sys2Proof/Machine/Sensing.lean ====
section
/-! DEFINITION. Pulse counting, the sample period end and the run-hour boundary
(spec/01_sensing_lines_outputs_and_the_section_clock.md, spec/03_speed_and_slip.md, spec/05_forecast_and_urgency.md). -/

namespace Sys2Proof.Machine

open Sys2Proof

/-- PULSE_COUNTED (R8): one more on an ENCODER or TACH line, saturating at 65535; counting runs only in OPERATING. -/
def execPulseCounted (line : Nat) (s : State) : Result :=
  if s.operating && (s.cfg.fn line == .encoder || s.cfg.fn line == .tach) then
    done
      { s with
        lines :=
          { s.lines with
            counts := s.lines.counts.set line (satAdd Config.countTop (s.lines.counts.getD line 0) 1) } }
  else .next s

/-- The encoder count E of a period: the count of the ENCODER line, 0 with none assigned (R10). -/
def encoderCount : List LineFn → List Nat → Nat
  | f :: fs, n :: ns => if f = .encoder then n else encoderCount fs ns
  | _, _ => 0

/-- The slip work of one record at a period end (R41 to R44): a roller that names a tach line, with an ENCODER
assigned. -/
def Component.measure (cfg : Configuration) (counts : List Nat) (encoder : Nat) (sl : SlotConfig) (c : Component) :
    Component :=
  match sl.tach with
  | none => c
  | some line =>
    if sl.kind ≠ .belt ∧ cfg.assigned .encoder = true then
      let slip := nextSlip c.dyn.slip encoder sl.ratio (counts.getD line 0)
      if slip = c.dyn.slip then c else { c with dyn := { c.dyn with slip := slip }, marked := true }
    else c

/-- With MOTOR_RUN high the Slip Monitor takes the counts, and the distance credit is handed on (R10). -/
def State.usePeriod (s : State) (counts : List Nat) : State :=
  if s.lines.levels.motorRun.level then
    let encoder := encoderCount s.cfg.functions counts
    { s with comps := mapSlots (Component.measure s.cfg counts encoder) s.cfg.slots s.comps }.hand
      [.distanceCredit encoder]
  else s

/-- The period's counts are taken and restart at 0 (R10). -/
def State.restartCounts (s : State) : State :=
  { s with lines := { s.lines with counts := List.replicate Config.lines 0 } }

/-- The tracker's stale sweep (R21). -/
def State.sweepInbound (s : State) : State := { s with tracker := s.tracker.sweep s.cfg.tHand }

/-- SAMPLE_PERIOD_END (R10): counts taken and restarted, slip and distance handed on with MOTOR_RUN high, the inbound
queue swept, an owed TAKEN handed over again (R157), and the period end handed to the store (R175). The slip update
comes before the checkpoint that this period end hands on (the model's choice, notes/assumptions/33.md). -/
def execSamplePeriodEnd (s : State) : Result :=
  if s.operating then
    done ((((s.restartCounts.usePeriod s.lines.counts).sweepInbound).retryTaken).hand [.checkpoint])
  else .next s

/-- The work of a run-hour boundary on one record (R82, R84): rate and hour delta, then H, then U and the band where
they move. -/
def Component.hour (cfg : Configuration) (sl : SlotConfig) (c : Component) : Component :=
  let dyn := { c.dyn with rate := nextRate c.dyn, rateValid := true, hourDelta := 0 }
  let hours := hoursOf sl.life dyn
  let urgency := if hours = c.hours then c.urgency else urgencyOf cfg.hz cfg.tWatch c.wear hours
  let band := if urgency = c.urgency then c.band else bandOf cfg.tWatch c.wear urgency
  { c with
    dyn := dyn, hours := hours, urgency := urgency, band := band
    marked := if dyn = c.dyn then c.marked else true }

/-- The run-time counters pass a run-hour boundary, which marks the node record (R12, R175). -/
def State.countHour (s : State) : State :=
  { s with lines := s.lines.endHour, account := { s.account with nodeMarked := true } }

/-- RUN_HOUR_BOUNDARY (R12, R84): the Forecast Unit takes the boundary. One that the section clock has handed over found
the counters at their turn; one that the sender names outright turns them as well (the model's reading,
notes/assumptions/34.md). -/
def execRunHourBoundary (s : State) : Result :=
  let taken := s.take .runHourBoundary
  if s.operating then
    let counted := if s.handed.contains .runHourBoundary then taken else taken.countHour
    done (counted.rework (Component.hour s.cfg))
  else .next taken

end Sys2Proof.Machine
end

