-- ==== Sys2Proof/Machine/Ranges.lean ====
section
/-! DEFINITION. What a stored record may hold: the ranges of its fields (R52, R53, R163, R174, R178), and for the
configuration record the checks of COMMIT (R180). -/

namespace Sys2Proof.Machine

open Sys2Proof

/-- The static fields of a slot within their ranges (R52, R178). -/
abbrev SlotConfig.InRange (sl : SlotConfig) : Prop :=
  1 ≤ sl.life ∧ sl.life ≤ 67108863 ∧ sl.weight ≤ 255 ∧ 1 ≤ sl.ratio ∧ sl.ratio ≤ 65535 ∧ sl.distance ≤ 65535 ∧
    sl.start ≤ 65535 ∧ sl.tach.all (fun line => decide (line < Config.lines)) = true ∧
    (sl.kind = .belt → sl.tach = none)

/-- A configuration within the ranges of R178 and section 7.4. -/
abbrev Configuration.InRange (c : Configuration) : Prop :=
  (1 ≤ c.k ∧ c.k ≤ 8) ∧ (1 ≤ c.hz ∧ c.hz ≤ 4095) ∧ (1 ≤ c.tWatch ∧ c.tWatch ≤ 999) ∧
    (c.tHold = 0 ∨ (1000 ≤ c.tHold ∧ c.tHold ≤ 1999)) ∧ c.g ≤ 255 ∧ c.j ≤ 255 ∧
    (50 ≤ c.tTransit ∧ c.tTransit ≤ 5000) ∧ (20 ≤ c.tBlock ∧ c.tBlock ≤ 2000) ∧
    (100 ≤ c.tHand ∧ c.tHand ≤ 10000) ∧
    (c.thicknessFactors.length = 8 ∧ ∀ f ∈ c.thicknessFactors, f ≤ 1023) ∧
    (c.massFactors.length = 8 ∧ ∀ f ∈ c.massFactors, f ≤ 1023) ∧
    (c.upstream.length = 2 ∧ ∀ u ∈ c.upstream, usableAddr u.address = true) ∧
    c.functions.length = Config.lines ∧ (c.slots.length = Config.slots ∧ ∀ sl ∈ c.slots, sl.InRange)

/-- The stored fields of a component within their widths (R53); the account's bound is `Capped`. -/
abbrev DynRecord.InRange (d : DynRecord) : Prop :=
  d.slip ≤ 1000 ∧ d.rate ≤ Config.deltaTop ∧ d.hourDelta ≤ Config.deltaTop ∧ d.serviceCount ≤ 255

/-- An order record within its widths (R163). W at issue has no top here, and U at issue no floor of 128: a record so
damaged, with a check word that matches, is loaded as good (the model's choice, notes/assumptions/8.md). -/
abbrev OrderRecord.InRange (o : OrderRecord) : Prop :=
  o.slot < Config.slots ∧ o.urgencyAtIssue ≤ 255 ∧ o.windowAtIssue < 65536 ∧ o.windowAtClose < 65536

/-- A node record within its widths (R12, R151, R164, R181). -/
abbrev NodeRecord.InRange (n : NodeRecord) : Prop :=
  n.runHours ≤ Config.runHoursTop ∧ n.runMs < Config.runHourMs ∧ n.windowCount < 65536 ∧ n.head < Config.slots ∧
    n.tail < Config.slots ∧ n.commissionCount ≤ Config.countTop

/-- A configuration that a COMMIT passes (R1, R180), within its ranges. -/
def Configuration.committable (c : Configuration) : Bool := decide c.InRange && decide (commitResult c = 1)

/-- One record with lawful contents. -/
def StoreWrite.lawful : StoreWrite → Bool
  | .config c => c.committable
  | .component _ d => decide d.InRange
  | .order _ o => decide o.InRange
  | .node n => decide n.InRange

end Sys2Proof.Machine
end

