-- ==== Sys2Proof/Machine/Start.lean ====
section
/-! DEFINITION. The start (spec/11_account_store_commissioning_and_start.md, sections 11.1 and 11.2; spec/01 R13, R14):
POWER_ON, RESET_FALL, RESET_RISE, START_COMPLETE, POWER_LOSS. -/

namespace Sys2Proof.Machine

open Sys2Proof

/-! ### Volatile state -/

/-- Everything volatile at its value after power-on; power, the RESET level, straps, pins, the store, the commands that
wait and the count of choices are kept (R14, R39, R127, R148, R162, R182). -/
def State.cleared (s : State) : State :=
  { State.reset with
    power := s.power
    resetLine := s.resetLine
    straps := s.straps
    pins := s.pins
    bus := { State.reset.bus with mode := strapMode s.straps }
    account := { State.reset.account with records := s.account.records }
    choices := s.choices
    pending := s.pending }

/-- The straps as read at this start, and the RESET level standing then (R13, R14). -/
def State.readStraps (s : State) (straps : Straps) (resetHigh : Bool) : State :=
  { s with
    straps := straps, resetLine := { level := resetHigh, held := 0 }
    pins := { s.pins with straps := straps, reset := resetHigh } }

/-- POWER_ON (R13, R14, R176): STARTING, with the straps read and RESET at its raw level. -/
def execPowerOn (straps : Straps) (resetHigh : Bool) (s : State) : Result :=
  if s.power then .next s else done ({ s with power := true }.readStraps straps resetHigh).cleared

/-- RESET_FALL (R14): a final checkpoint if OPERATING, the writes of a COMMIT completed (R181), then STARTING with
everything volatile gone. -/
def execResetFall (s : State) : Result :=
  if s.power then
    let kept := if s.operating then s.finishWrites.checkpointAll else s.finishWrites
    done
      { kept with
        resetLine := { level := false, held := 0 }, pins := { kept.pins with reset := false } }.cleared
  else .next s

/-- RESET_RISE (R14): the start runs as at power-on, with the straps read. -/
def execResetRise (straps : Straps) (s : State) : Result :=
  if s.power && !s.resetLine.level then done (s.readStraps straps true).cleared else .next s

/-- POWER_LOSS (R110): the node is off, and only its store is left. Of a COMMIT in progress the writes begun are done
(R181); a checkpoint has written the records it has written, and no other (R174). -/
def execPowerLoss (begun : Nat) (s : State) : Result :=
  if s.power then
    done
      { State.reset with
        pins := s.pins
        account :=
          { State.reset.account with records := s.account.records.writeAll (s.account.writes.take begun) }
        choices := s.choices
        pending := s.pending }
  else .next s

/-! ### Loading -/

/-- The check word of a damaged record matches the contents it has (R174). -/
def StoreDamage.unseen (d : StoreDamage) : Bool :=
  match d.record with
  | .config c => d.check == recordCheck (Config.configurationBytes c)
  | .component _ c => d.check == recordCheck (Config.componentBytes c)
  | .order _ c => d.check == recordCheck (Config.orderBytes c)
  | .node c => d.check == recordCheck (Config.nodeBytes c)

/-- A written record after damage; a record never written has none to take (R174). -/
def Stored.spoil {α : Type} (r : Stored α) (contents : α) (check : BitVec 16) : Stored α :=
  match r with
  | .absent => .absent
  | .written _ _ => .written contents check

/-- The store after damage to one record. Damage that leaves a matching check word on contents that no record can hold
is left out (the model's choice, notes/assumptions/8.md). -/
def Store.damage (st : Store) (d : StoreDamage) : Store :=
  if d.record.lawful || !d.unseen then
    match d.record with
    | .config c => { st with config := st.config.spoil c d.check }
    | .component i c =>
      { st with components := st.components.set i ((st.components.getD i .absent).spoil c d.check) }
    | .order i c => { st with orders := st.orders.set i ((st.orders.getD i .absent).spoil c d.check) }
    | .node c => { st with node := st.node.spoil c d.check }
  else st

/-- The store after all the damage it has taken (R174). -/
def Store.damaged (st : Store) : List StoreDamage → Store
  | [] => st
  | d :: ds => (st.damage d).damaged ds

/-- The store as it is read at a start, every check word compared (R174, R176). -/
def Store.found (st : Store) : FoundStore :=
  { config := st.config.found Config.configurationBytes
    components := st.components.map fun r => r.found Config.componentBytes
    orders := st.orders.map fun r => r.found Config.orderBytes
    node := st.node.found Config.nodeBytes }

/-- A record is bad (R174). -/
def Found.isBad {α : Type} : Found α → Bool
  | .bad => true
  | .absent => false
  | .good _ => false

/-- The configuration record is good (R176). -/
def FoundStore.configGood (st : FoundStore) : Bool :=
  match st.config with
  | .good _ => true
  | .absent => false
  | .bad => false

/-- The node record as loaded (R174, R177): an absent one is all zero; a bad one is zeroed, with the label taken from
the configuration record where that is good. -/
def FoundStore.loadNode (st : FoundStore) : NodeRecord :=
  match st.node with
  | .good n => n
  | .absent => NodeRecord.zero
  | .bad =>
    match st.config with
    | .good c => { NodeRecord.zero with label := c.label, labelCommitted := c.labelCommitted }
    | .absent => NodeRecord.zero
    | .bad => NodeRecord.zero

/-- The configuration as loaded: the record if good, else the blank one with the label of the node record (R178). -/
def FoundStore.loadConfig (st : FoundStore) : Configuration :=
  match st.config with
  | .good c => c
  | .absent => { Configuration.blank with label := st.loadNode.label, labelCommitted := st.loadNode.labelCommitted }
  | .bad => { Configuration.blank with label := st.loadNode.label, labelCommitted := st.loadNode.labelCommitted }

/-- The record of a present component whose stored record is bad (R77, R177): at rated life, LOST. -/
def lostRecord (life : Nat) : DynRecord := { DynRecord.zero with account := lifeTicks life, lost := true }

/-- A component record as loaded (R54, R174, R177). A good record is taken as stored: an account above its cap
(notes/assumptions/29.md), and a slip above 0 in a record that is not measured (the model's reading,
notes/assumptions/42.md). -/
def loadComponent (sl : SlotConfig) (r : Found DynRecord) : Component :=
  match r with
  | .bad => { Component.zero with dyn := if sl.present then lostRecord sl.life else DynRecord.zero, marked := true }
  | .absent => Component.zero
  | .good d => if sl.present then { Component.zero with dyn := d } else Component.zero

/-- The component records as loaded. -/
def loadComponents : List SlotConfig → List (Found DynRecord) → List Component
  | sl :: slots, r :: rs => loadComponent sl r :: loadComponents slots rs
  | _, _ => []

/-- An order record as loaded; an absent one is EMPTY (R174). -/
def loadOrder (r : Found OrderRecord) : OrderRecord :=
  match r with
  | .good o => o
  | .absent => OrderRecord.empty
  | .bad => OrderRecord.empty

/-- Positions from one onward, wrapping (R164). -/
def ringPositions : Nat → Nat → List Nat
  | _, 0 => []
  | position, count + 1 => position :: ringPositions (nextPosition position) count

/-- The open count derived from the records (R172 step 2). -/
def derivedOpenCount (ring : List OrderRecord) (head tail : Nat) : Nat :=
  if head = tail then (if (ring.getD head .empty).status = .opened then Config.slots else 0)
  else (tail + Config.slots - head) % Config.slots

/-- The law of R164, as checked at load (R172 step 3): the positions from head up to tail are exactly the OPEN ones,
each names a present slot, and no two name one slot. -/
def ringLawful (slots : List SlotConfig) (ring : List OrderRecord) (head tail : Nat) : Bool :=
  let opens := ringPositions head (derivedOpenCount ring head tail)
  ((List.range Config.slots).all fun i =>
      (decide ((ring.getD i .empty).status = .opened)) == opens.contains i) &&
    (opens.all fun i => (slots.getD (ring.getD i .empty).slot .blank).present) &&
    decide (opens.map fun i => (ring.getD i .empty).slot).Nodup

/-- The emptied list, every position marked changed (R177). -/
def OrderList.emptied : OrderList :=
  { ring := List.replicate Config.slots .empty, marks := List.replicate Config.slots true, head := 0, tail := 0,
    openCount := 0 }

/-- The list must be emptied at load: a bad order record, a bad node record, or a broken law (R172, R177). With a
configuration record that is bad or absent, the law is checked against the blank configuration, in which no slot is
present (the model's reading, notes/assumptions/41.md). -/
def FoundStore.listBroken (st : FoundStore) : Bool :=
  st.node.isBad || st.orders.any Found.isBad ||
    !ringLawful st.loadConfig.slots (st.orders.map loadOrder) st.loadNode.head st.loadNode.tail

/-- The order list as loaded (R172). -/
def FoundStore.loadOrders (st : FoundStore) : OrderList :=
  if st.listBroken then .emptied
  else
    { ring := st.orders.map loadOrder, marks := List.replicate Config.slots false, head := st.loadNode.head
      tail := st.loadNode.tail
      openCount := derivedOpenCount (st.orders.map loadOrder) st.loadNode.head st.loadNode.tail }

/-- The blocks take up the loaded records (R176, R177): what every running state has. -/
def State.load (s : State) (records : Store) (st : FoundStore) : State :=
  let node := st.loadNode
  { s with
    cfg := st.loadConfig
    cfgGood := st.configGood
    comps := loadComponents st.loadConfig.slots st.components
    orders := st.loadOrders
    lines := { s.lines with runMs := node.runMs, runHours := node.runHours }
    planner := { s.planner with windowCount := node.windowCount }
    account :=
      { s.account with
        records := records, nodeMarked := st.listBroken, commissionCount := node.commissionCount, label := node.label
        labelCommitted := node.labelCommitted } }

/-! ### Entry to the running states -/

/-- Raw levels by line, as first sampled (R3). -/
def sampledLines (levels : BitVec 24) : List Bool := (List.range Config.lines).map fun i => levels.getLsbD i

/-- The raw level of the line of a function; low where none carries it. -/
def rawLevel (fn : LineFn) : List LineFn → List Bool → Bool
  | f :: fs, p :: ps => (f == fn && p) || rawLevel fn fs ps
  | _, _ => false

/-- The filtered levels at entry to OPERATING: the raw levels, with no edge (R3). -/
def entryLevels (functions : List LineFn) (raw : List Bool) : Levels :=
  let at' (fn : LineFn) : LevelLine := { level := rawLevel fn functions raw, held := 0 }
  { entryEye := at' .entryEye, straightEye := at' .straightEye, divertEye := at' .divertEye
    motorRun := at' .motorRun, maint := at' .maint, confirm := at' .confirm, decline := at' .decline
    classes := ([0, 1, 2, 3, 4, 5] : List (Fin 6)).map fun i => at' (.classLine i) }

/-- A slot is named by an OPEN order (R55). -/
def OrderList.opensSlot (o : OrderList) (slot : Nat) : Bool :=
  o.ring.any fun r => r.status == .opened && r.slot == slot

/-- Open-order flags derived from the order records: set on present records named by an OPEN order (R55, R172). -/
def deriveFlags (o : OrderList) : Nat → List SlotConfig → List Component → List Component
  | i, sl :: slots, c :: comps =>
    { c with openOrder := sl.present && o.opensSlot i } :: deriveFlags o (i + 1) slots comps
  | _, _, _ => []

/-- Entry to OPERATING (R3, R17, R39, R79, R93, R148, R162, R172). -/
def State.enterOperating (s : State) (levels : BitVec 24) : State :=
  let raw := sampledLines levels
  let comps := deriveFlags s.orders 0 s.cfg.slots (mapSlots (Component.derive s.cfg) s.cfg.slots s.comps)
  let lv := entryLevels s.cfg.functions raw
  let node := nodeForecast s.cfg.slots comps
  State.decideStanding
    { s with
      node := .operating
      pins := { s.pins with lines := raw }
      lines := { s.lines with levels := lv, counts := List.replicate Config.lines 0, sampleMs := 0, refreshMs := 0 }
      tracker :=
        { State.reset.tracker with sectionState := if lv.motorRun.level then .running else .stopped }
      comps := comps
      forecast := { pending := node, announced := node } }

/-- Entry to COMMISSIONING (R178): the staging area is the configuration as loaded. The component table is not in
operation there, and its derived fields stand at their zero values (the model's choice, notes/assumptions/40.md). -/
def State.enterCommissioning (s : State) : State :=
  { s with node := .commissioning, account := { s.account with staging := s.cfg } }

/-- Leave STARTING by the configuration record and the COMMISSION strap (R176). -/
def State.leaveStarting (s : State) (levels : BitVec 24) : State :=
  if s.straps.commission then s.enterCommissioning
  else if s.cfgGood then s.enterOperating levels
  else { s with node := .unconfigured }

/-- Take up the records as found, and leave STARTING (R176, R177). -/
def State.startWith (s : State) (records : Store) (found : FoundStore) (levels : BitVec 24) : State :=
  (s.cleared.load records found).leaveStarting levels

/-- START_COMPLETE (R176, R177): every record read, bad ones replaced, and the node leaves STARTING. -/
def execStartComplete (damage : List StoreDamage) (levels : BitVec 24) (s : State) : Result :=
  if s.power && s.node == .starting && s.resetLine.level then
    done
      (s.startWith (s.account.records.damaged damage) (s.account.records.damaged damage).found levels)
  else .next s

end Sys2Proof.Machine
end

