-- ==== Sys2Proof/Machine/Dispatch.lean ====
section
/-! DEFINITION. The meaning of each command, one arm per row of spec/opcode_table.json. -/

namespace Sys2Proof.Machine

open Sys2Proof

def exec (i : Instr) (s : State) : Host.Outcome State Fault Refusal :=
  match i with
  | .powerOn straps resetHigh => Sys2Proof.Machine.execPowerOn straps resetHigh s
  | .resetFall => Sys2Proof.Machine.execResetFall s
  | .resetRise straps => Sys2Proof.Machine.execResetRise straps s
  | .startComplete damage levels => Sys2Proof.Machine.execStartComplete damage levels s
  | .pulseCounted line => Sys2Proof.Machine.execPulseCounted line s
  | .arrival latch => Sys2Proof.Machine.execArrival latch s
  | .departure exit => Sys2Proof.Machine.execDeparture exit s
  | .eyeClear eye => Sys2Proof.Machine.execEyeClear eye s
  | .motorStart => Sys2Proof.Machine.execMotorStart s
  | .motorStop => Sys2Proof.Machine.execMotorStop s
  | .maintRise => Sys2Proof.Machine.execMaintRise s
  | .maintFall => Sys2Proof.Machine.execMaintFall s
  | .confirm => Sys2Proof.Machine.execConfirm s
  | .decline => Sys2Proof.Machine.execDecline s
  | .samplePeriodEnd => Sys2Proof.Machine.execSamplePeriodEnd s
  | .checkpoint => Sys2Proof.Machine.execCheckpoint s
  | .claimRefresh => Sys2Proof.Machine.execClaimRefresh s
  | .runHourBoundary => Sys2Proof.Machine.execRunHourBoundary s
  | .transitJam => Sys2Proof.Machine.execTransitJam s
  | .blockedJam => Sys2Proof.Machine.execBlockedJam s
  | .clearHoldComplete => Sys2Proof.Machine.execClearHoldComplete s
  | .pieceCredit thickness mass exit phantom => Sys2Proof.Machine.execPieceCredit thickness mass exit phantom s
  | .distanceCredit count => Sys2Proof.Machine.execDistanceCredit count s
  | .startSurcharge => Sys2Proof.Machine.execStartSurcharge s
  | .jamSurcharge => Sys2Proof.Machine.execJamSurcharge s
  | .replace n => Sys2Proof.Machine.execReplace n s
  | .pendingHoldExpiry => Sys2Proof.Machine.execPendingHoldExpiry s
  | .claimEntryAgeOut addr => Sys2Proof.Machine.execClaimEntryAgeOut addr s
  | .muteEnd => Sys2Proof.Machine.execMuteEnd s
  | .busIdle => Sys2Proof.Machine.execBusIdle s
  | .frameStart => Sys2Proof.Machine.execFrameStart s
  | .frameJoin silence => Sys2Proof.Machine.execFrameJoin silence s
  | .arbitrationLost cell => Sys2Proof.Machine.execArbitrationLost cell s
  | .frameAbort cell => Sys2Proof.Machine.execFrameAbort cell s
  | .frameComplete witnessed => Sys2Proof.Machine.execFrameComplete witnessed s
  | .frameReceived cells => Sys2Proof.Machine.execFrameReceived cells s
  | .passageReceived source tag thickness mass exit phantom => Sys2Proof.Machine.execPassageReceived source tag thickness mass exit phantom s
  | .jamReceived source => Sys2Proof.Machine.execJamReceived source s
  | .takenHeard source => Sys2Proof.Machine.execTakenHeard source s
  | .claimReceived source urgency due hours => Sys2Proof.Machine.execClaimReceived source urgency due hours s
  | .withdrawReceived source => Sys2Proof.Machine.execWithdrawReceived source s
  | .queryIdentity querier arg => Sys2Proof.Machine.execQueryIdentity querier arg s
  | .querySection querier arg => Sys2Proof.Machine.execQuerySection querier arg s
  | .queryCounts querier arg => Sys2Proof.Machine.execQueryCounts querier arg s
  | .queryComponent querier arg => Sys2Proof.Machine.execQueryComponent querier arg s
  | .queryOrder querier arg => Sys2Proof.Machine.execQueryOrder querier arg s
  | .queryList querier arg => Sys2Proof.Machine.execQueryList querier arg s
  | .queryCommission querier arg => Sys2Proof.Machine.execQueryCommission querier arg s
  | .lineA k hz tWatch tHold => Sys2Proof.Machine.execLineA k hz tWatch tHold s
  | .lineB g thickness mass classSource announceDivert j => Sys2Proof.Machine.execLineB g thickness mass classSource announceDivert j s
  | .lineC tTransit tBlock tHand => Sys2Proof.Machine.execLineC tTransit tBlock tHand s
  | .factors table packed => Sys2Proof.Machine.execFactors table packed s
  | .upstream entry inUse address exit => Sys2Proof.Machine.execUpstream entry inUse address exit s
  | .input line function => Sys2Proof.Machine.execInput line function s
  | .slot n kind path life weight tach => Sys2Proof.Machine.execSlot n kind path life weight tach s
  | .slotB n ratio distance start => Sys2Proof.Machine.execSlotB n ratio distance start s
  | .clear n => Sys2Proof.Machine.execClear n s
  | .label value => Sys2Proof.Machine.execLabel value s
  | .commit => Sys2Proof.Machine.execCommit s
  | .commitWritesDone => Sys2Proof.Machine.execCommitWritesDone s
  | .powerLoss begun => Sys2Proof.Machine.execPowerLoss begun s
  | .busBusy => Sys2Proof.Machine.execBusBusy s

end Sys2Proof.Machine
end

