-- ==== Sys2Proof/Machine/Step.lean ====
section
/-! DEFINITION. One step: the command at the front of the queue, or on an empty queue the block's own work and clock
(Sys2Proof/Machine/Clock.lean). -/

namespace Sys2Proof.Machine

open Sys2Proof

/-- The state with the queue's rest. -/
def State.withPending (s : State) (pending : List Instr) : State := { s with pending := pending }

/-- One step of the node. -/
def step (s : State) : Host.Outcome State Fault Refusal :=
  match s.pending with
  | command :: rest => exec command (s.withPending rest)
  | [] => .next s.idle

/-- The state with the command that a table word spells put at the front of its queue; no word of this table spells a
command. -/
def State.withFetchWord (s : State) (nbits w : Nat) : State :=
  match decodeTableWord nbits w with
  | some command => s.withPending (command :: s.pending)
  | none => s

end Sys2Proof.Machine
end

