-- ==== Sys2Proof/Safety.lean ====
section
/-! DEFINITION. What the manual says always holds of a node: one law per block, each a decidable statement about one
state. Sys2Proof/Certificates/Slice0/Obligations.lean states that every step keeps them. Where a law is named
"of OPERATING" it speaks of that state alone. -/

namespace Sys2Proof.Machine

open Sys2Proof

/-! ### Ranges -/

/-- A record whose check word matches its contents meets a test; an absent or bad one has no contents to fail it
(R174). -/
def Stored.meets {α : Type} (bytes : α → List Byte) (test : α → Bool) : Stored α → Bool
  | .absent => true
  | .written contents check => test contents || decide (check ≠ recordCheck (bytes contents))

/-- The configuration laws: what is loaded, staged, stored or still to be written is within its ranges, a stored or
good loaded configuration has passed the checks of COMMIT, the node operates on a good one only, and writes of a
COMMIT wait in COMMISSIONING only (R1, R176, R178, R180, R181). -/
abbrev ConfigLaw (s : State) : Prop :=
  (∀ c ∈ [s.cfg, s.account.staging], c.InRange) ∧
    s.account.records.config.meets Config.configurationBytes Configuration.committable = true ∧
    (s.account.writes.all fun w => w.lawful) = true ∧ (s.cfgGood = true → commitResult s.cfg = 1) ∧
    (s.node = .operating → s.cfgGood = true) ∧ (s.account.writes ≠ [] → s.node = .commissioning)

/-- Every good stored record is within its widths (R174). -/
abbrev Store.InRange (st : Store) : Prop :=
  (st.components.length = Config.slots ∧
      ∀ r ∈ st.components, r.meets Config.componentBytes (fun d => decide d.InRange) = true) ∧
    (st.orders.length = Config.slots ∧
      ∀ r ∈ st.orders, r.meets Config.orderBytes (fun o => decide o.InRange) = true) ∧
    st.node.meets Config.nodeBytes (fun n => decide n.InRange) = true

/-- The widths of everything that is held as a number (the ranges INVENTORY.md lists under State). -/
abbrev WidthLaw (s : State) : Prop :=
  (s.lines.counts.length = Config.lines ∧ ∀ n ∈ s.lines.counts, n ≤ Config.countTop) ∧
    s.lines.sampleMs < Config.samplePeriodMs ∧ s.lines.refreshMs < Config.refreshMs ∧
    s.lines.runMs < Config.runHourMs ∧ s.lines.runHours ≤ Config.runHoursTop ∧ s.planner.windowCount < 65536 ∧
    s.account.commissionCount ≤ Config.countTop ∧ s.account.stagedItems ≤ 255 ∧ s.account.lastCommit ≤ 13 ∧
    s.queue.dropped ≤ Config.countTop ∧ s.out.lampPhase < Config.lampPeriodMs ∧
    (s.comps.length = Config.slots ∧
      ∀ c ∈ s.comps, c.dyn.InRange ∧ c.urgency ≤ 255 ∧ c.hours ≤ Config.hoursTop) ∧
    (s.orders.ring.length = Config.slots ∧ ∀ o ∈ s.orders.ring, o.InRange) ∧
    s.orders.marks.length = Config.slots ∧ s.orders.head < Config.slots ∧ s.orders.tail < Config.slots ∧
    s.account.records.InRange

/-! ### Outside OPERATING -/

/-- Outside OPERATING the tracker, the planner and the forecast hold nothing, and no checkpoint is in progress: every
volatile value is as after power-on, but for the window count as loaded (R39, R79, R95, R148, R162, R175;
notes/assumptions/21.md). -/
abbrev QuietLaw (s : State) : Prop :=
  s.node ≠ .operating →
    s.tracker = State.reset.tracker ∧
      s.planner = { State.reset.planner with windowCount := s.planner.windowCount } ∧
      s.forecast = State.reset.forecast ∧ s.lines.counts = List.replicate Config.lines 0 ∧ s.account.due = []

/-! ### Piece Tracker -/

/-- The laws of the Piece Tracker: queue and list within their places, entries and records oldest first, the tag
sequence and counters within their ranges, JAMMED with an empty list and no blocked time, a clear hold in JAMMED
only (R18, R25, R26, R33, R36, R38). -/
abbrev TrackerLaw (s : State) : Prop :=
  s.tracker.inbound.length ≤ Config.inboundPlaces ∧ s.tracker.pieces.length ≤ Config.piecePlaces ∧
    s.tracker.inbound.Pairwise (fun older newer => newer.age ≤ older.age) ∧
    s.tracker.pieces.Pairwise (fun older newer => newer.age ≤ older.age) ∧
    s.tracker.tagSeq < Config.tagSequences ∧
    (s.tracker.departed ≤ Config.countTop ∧ s.tracker.missing ≤ Config.countTop ∧
      s.tracker.phantom ≤ Config.countTop ∧ s.tracker.untagged ≤ Config.countTop ∧
      s.tracker.jams ≤ Config.countTop) ∧
    (s.tracker.sectionState = .jammed →
      s.tracker.pieces = [] ∧ s.tracker.entryBlocked = 0 ∧ s.tracker.straightBlocked = 0 ∧
        s.tracker.divertBlocked = 0) ∧
    (s.tracker.clearHold.isSome = true → s.tracker.sectionState = .jammed) ∧
    s.tracker.clearHold.all (fun ms => decide (ms ≤ Config.clearHoldMs)) = true

/-- RUNNING and STOPPED follow MOTOR_RUN (R17). -/
abbrev MotorLaw (s : State) : Prop :=
  s.node = .operating →
    (s.tracker.sectionState = .running → s.lines.levels.motorRun.level = true) ∧
      (s.tracker.sectionState = .stopped → s.lines.levels.motorRun.level = false)

/-! ### Component table -/

/-- What is derived of a present record agrees with its stored fields; a slot that is not present is all zero (R54,
R58, R71, R87). -/
abbrev RecordLaw (cfg : Configuration) (sl : SlotConfig) (c : Component) : Prop :=
  if sl.present = true then
    c.wear = wearOf c.dyn.account sl.life ∧ c.urgency = urgencyOf cfg.hz cfg.tWatch c.wear c.hours ∧
      c.band = bandOf cfg.tWatch c.wear c.urgency
  else c = { Component.zero with marked := c.marked }

/-- The node values of a table (R89): the largest U of the present records or 0, how many of them are due (U of 128 or
more), and the smallest H of the due ones, 65535 with none. -/
abbrev ForecastOf (slots : List SlotConfig) (comps : List Component) (v : NodeForecast) : Prop :=
  let present := ((slots.zip comps).filter fun p => p.1.present).map fun p => p.2
  let due := present.filter fun c => decide (128 ≤ c.urgency)
  (∀ c ∈ present, c.urgency ≤ v.urgency) ∧ (v.urgency = 0 ∨ ∃ c ∈ present, c.urgency = v.urgency) ∧
    v.dueCount = due.length ∧
    (∀ c ∈ due, v.earliestHours ≤ c.hours) ∧ v.earliestHours ≤ 65535 ∧
    (v.earliestHours = 65535 ∨ ∃ c ∈ due, c.hours = v.earliestHours)

/-- The laws of the component table of OPERATING, and the pending values that follow from it (R54, R58, R71, R87,
R89). -/
abbrev TableLaw (s : State) : Prop :=
  s.node = .operating →
    (∀ p ∈ s.cfg.slots.zip s.comps, RecordLaw s.cfg p.1 p.2) ∧
      ForecastOf s.cfg.slots s.comps s.forecast.pending

/-- Every account of a present slot lies within its cap (R56). A start can load a higher one (R181 after a power loss
inside a COMMIT; notes/assumptions/29.md), so this is a law of one stretch of OPERATING. -/
abbrev Capped (s : State) : Prop :=
  ∀ p ∈ s.cfg.slots.zip s.comps, p.1.present = true → p.2.dyn.account ≤ capOf p.1.life

/-! ### Service Planner -/

/-- The laws of the Service Planner: the claim view (R138), the standing (R145), the taken set (R150), the window
state (R149, R153, R158). -/
abbrev PlannerLaw (s : State) : Prop :=
  s.planner.view.length ≤ Config.viewPlaces ∧ s.planner.view.Pairwise (fun a b => a.before b = true) ∧
    (s.planner.view.map fun e => e.address).Nodup ∧
    (∀ e ∈ s.planner.view,
      s.acceptsSource e.address = true ∧ Config.dueUrgency ≤ e.urgency ∧ e.urgency ≤ 255 ∧
        e.age ≤ Config.claimAgeMs) ∧
    s.planner.standing = standingOf s.cfg.k s.forecast.announced.urgency s.straps.addr s.planner.view ∧
    s.planner.takenSet.length ≤ Config.takenPlaces ∧ s.planner.takenSet.Nodup ∧
    (s.planner.window = .closed → s.planner.takenSet = []) ∧
    (s.planner.pendingHold.isSome = true ↔ s.planner.window = .pending) ∧
    (s.planner.window = .contending → s.planner.takenSet.length < s.cfg.k)

/-- SERVICING, and every other state of an open window, is held only while MAINT is high (R149). -/
abbrev MaintLaw (s : State) : Prop :=
  s.node = .operating →
    (s.planner.window = .contending ∨ s.planner.window = .servicing ∨ s.planner.window = .deferred ∨
        s.planner.window = .standby) →
      s.lines.levels.maint.level = true

/-! ### Notice Queue -/

/-- The notice in transmission meets a test. -/
def State.sends (s : State) (test : NoticeBody → Bool) : Bool := s.inFlight.any fun n => test n.body

/-- How many notices of a kind the queue holds, the one in transmission among them (R122). -/
def State.holds (s : State) (test : NoticeBody → Bool) : Nat :=
  (s.queue.waiting.countP fun n => test n.body) + (if s.sends test then 1 else 0)

/-- How many TAKENs can still take a place: those waiting, and one in transmission that is not marked (R125). -/
def State.liveTaken (s : State) : Nat :=
  (s.queue.waiting.countP fun n => n.body.isTaken) +
    (if s.sends NoticeBody.isTaken && !s.queue.removalMark then 1 else 0)

/-- The laws of the Notice Queue: at most eight notices in ascending order of header, at most one CLAIM or WITHDRAW,
a live TAKEN only in CONTENDING and only one, the REPORT exactly while a query is pending, a held successor only
behind a CLAIM or WITHDRAW in transmission, a removal mark only on a TAKEN in transmission, and nothing in SILENCED
(R121, R122, R123, R125, R127, R130, R157). -/
abbrev QueueLaw (s : State) : Prop :=
  s.queued ≤ Config.queuePlaces ∧
    s.queue.waiting.Pairwise (fun a b => a.header s.straps.addr ≤ b.header s.straps.addr) ∧
    s.holds NoticeBody.isClaimKind ≤ 1 ∧
    s.liveTaken ≤ (if s.planner.window = .contending ∧ s.planner.takenOwed = false then 1 else 0) ∧
    s.holds NoticeBody.isReport = (if s.query.isSome then 1 else 0) ∧
    (s.queue.held.isSome = true → s.sends NoticeBody.isClaimKind = true) ∧
    s.queue.held.all (fun n => n.body.isClaimKind) = true ∧
    (s.queue.removalMark = true → s.sends NoticeBody.isTaken = true) ∧
    (s.bus.mode = .silenced → s.queue.waiting = [] ∧ s.inFlight = none)

/-! ### Order List -/

/-- The order at a position is OPEN. -/
abbrev OrderList.isOpen (o : OrderList) (position : Nat) : Prop := (o.at position).status = .opened

/-- The law of the order ring of OPERATING (R164): the OPEN orders are exactly those from the head up to the tail,
each names a present slot, no two name one slot, and the open-order flags are those of R55. -/
abbrev RingLaw (s : State) : Prop :=
  s.node = .operating →
    s.orders.openCount ≤ Config.slots ∧
      s.orders.tail = (s.orders.head + s.orders.openCount) % Config.slots ∧
      (∀ p < Config.slots,
        s.orders.isOpen p ↔ (p + Config.slots - s.orders.head) % Config.slots < s.orders.openCount) ∧
      (∀ p < Config.slots, s.orders.isOpen p → (s.cfg.slot (s.orders.at p).slot).present = true) ∧
      (∀ p < Config.slots, ∀ q < Config.slots,
        s.orders.isOpen p → s.orders.isOpen q → (s.orders.at p).slot = (s.orders.at q).slot → p = q) ∧
      (∀ i < Config.slots, (s.comp i).openOrder = s.orders.opensSlot i)

/-! ### Line Bus Controller -/

/-- The laws of the Line Bus Controller (R99, R100, R111, R112, R116). -/
abbrev BusLaw (s : State) : Prop :=
  s.bus.faultCount ≤ Config.faultTop ∧
    (s.bus.muteMs.isSome = true ↔ s.bus.faultCount = Config.faultTop) ∧
    (s.bus.mode = .mute → s.bus.muteMs.isSome = true) ∧
    (s.bus.muteMs.isSome = true → s.bus.mode ≠ .active) ∧
    s.bus.muteMs.all (fun ms => decide (ms ≤ Config.muteMs)) = true ∧
    (s.inFlight.isSome = true → s.bus.mode = .active ∧ s.bus.view = .busy) ∧
    (s.bus.view = .idle → s.bus.activity = .waiting ∧ s.bus.seenIdle = true) ∧
    (s.running = false → s.bus = { State.reset.bus with mode := s.bus.mode })

/-! ### Outputs -/

/-- The SERVICE lamp shows the pattern of R15's table, the first condition that holds, read from the top; HOLD REQUEST
is asserted exactly in OPERATING with a JAMMED section, or with a T_hold other than 0 that the wear of some present
component has reached (R16). -/
abbrev OutputLaw (s : State) : Prop :=
  s.out.lamp =
      (if s.resetLine.level = false ∨ s.node = .starting then .off
       else if s.node = .unconfigured then .fault
       else if s.bus.mode = .silenced then .fault
       else if s.node = .commissioning then .off
       else if s.planner.window = .servicing ∧ 0 < s.orders.openCount then .on
       else if s.planner.window = .closed ∧ s.planner.standing = .granted then .flash
       else .off) ∧
    (s.out.holdRequest = true ↔
      s.node = .operating ∧
        (s.tracker.sectionState = .jammed ∨
          (s.cfg.tHold ≠ 0 ∧ ∃ p ∈ s.cfg.slots.zip s.comps, p.1.present = true ∧ s.cfg.tHold ≤ p.2.wear)))

/-! ### Words the statements share -/

/-- What a record write leaves in the store (R174): the contents, with the check word of R102 over their bytes. -/
abbrev stored {α : Type} (bytes : α → List Byte) (contents : α) : Stored α :=
  .written contents (checkWord (payloadBits (bytes contents)))

/-- A written record whose check word does not match its contents (R174). -/
abbrev Stored.Bad {α : Type} (r : Stored α) (bytes : α → List Byte) : Prop :=
  ∃ contents check, r = .written contents check ∧ check ≠ checkWord (payloadBits (bytes contents))

/-- A store after a checkpoint of this state: each marked record as it stood, every other as before (R175). -/
abbrev CheckpointOf (s : State) (st : Store) : Prop :=
  st.config = s.account.records.config ∧
    (∀ i < Config.slots,
      st.components.getD i .absent =
        if (s.comp i).marked = true then stored Config.componentBytes (s.comp i).dyn
        else s.account.records.components.getD i .absent) ∧
    (∀ i < Config.slots,
      st.orders.getD i .absent =
        if s.orders.marks.getD i false = true then stored Config.orderBytes (s.orders.at i)
        else s.account.records.orders.getD i .absent) ∧
    st.node =
      if s.account.nodeMarked = true then stored Config.nodeBytes s.nodeRecord else s.account.records.node

/-- A notice has joined others by header: after every one of lower or equal header and before every one of higher header,
the others in the order they had (R121). -/
abbrev JoinedByHeader (addr : Addr) (n : Notice) (others joined : List Notice) : Prop :=
  ∃ before after, others = before ++ after ∧ joined = before ++ n :: after ∧
    (∀ m ∈ before, m.header addr ≤ n.header addr) ∧ ∀ m ∈ after, n.header addr < m.header addr

/-- A notice is back in its place: after every one of lower header and before every one of equal or higher header, which
joined later, the others in the order they had (R100, R121, R122; notes/assumptions/23.md). -/
abbrev ReturnedByHeader (addr : Addr) (n : Notice) (others joined : List Notice) : Prop :=
  ∃ before after, others = before ++ after ∧ joined = before ++ n :: after ∧
    (∀ m ∈ before, m.header addr < n.header addr) ∧ ∀ m ∈ after, n.header addr ≤ m.header addr

/-- The ALERTs of the bands that differ between two tables, one for each such slot, in slot order: class 4, priority
255 − U, with the slot, the band, W and H (R59, R73). -/
abbrev bandChanges (old new : List Component) : List Notice :=
  ((List.range 32).filter fun i => decide ((old.getD i .zero).band ≠ (new.getD i .zero).band)).map fun i =>
    { priority := 255 - (new.getD i .zero).urgency
      body := .alert i (new.getD i .zero).band (new.getD i .zero).wear (new.getD i .zero).hours }

/-- A record after a credit of an increment (R56, R58, R59, R71, R87): clamped at the cap, the applied amount in the
hour delta, wear, urgency and band as they follow, everything else kept. -/
abbrev CreditOf (cfg : Configuration) (sl : SlotConfig) (increment : Nat) (old new : Component) : Prop :=
  new.dyn.account = min (capOf sl.life) (old.dyn.account + increment) ∧
    new.dyn.hourDelta = min (2 ^ 48 - 1) (old.dyn.hourDelta + (new.dyn.account - old.dyn.account)) ∧
    new.wear = 1000 * new.dyn.account / (sl.life * 2 ^ 28) ∧
    new.urgency = urgencyOf cfg.hz cfg.tWatch new.wear old.hours ∧
    new.band = bandOf cfg.tWatch new.wear new.urgency ∧
    new.marked = (old.marked || decide (old.dyn.account < new.dyn.account)) ∧
    new =
      { old with
        dyn := { old.dyn with account := new.dyn.account, hourDelta := new.dyn.hourDelta }
        wear := new.wear, urgency := new.urgency, band := new.band, marked := new.marked }

/-- The state that every present record of s has taken its credit, each other record is as it was, the bands that
changed have queued their ALERTs in slot order, and nothing else of the state has changed but the outputs, the
request being no longer outstanding (R59, R73, R89). -/
abbrev Credited (s t : State) (request : Instr) (increment : SlotConfig → Component → Nat) : Prop :=
  (∀ i < Config.slots,
      if (s.cfg.slot i).present = true then
        CreditOf s.cfg (s.cfg.slot i) (increment (s.cfg.slot i) (s.comp i)) (s.comp i) (t.comp i)
      else t.comp i = s.comp i) ∧
    t.comps.length = s.comps.length ∧ ForecastOf s.cfg.slots t.comps t.forecast.pending ∧
    t =
      { s.offerAll (bandChanges s.comps t.comps) with
        comps := t.comps
        forecast := { s.forecast with pending := t.forecast.pending }
        handed := s.handed.erase request
        out := t.out }

end Sys2Proof.Machine
end

