-- ==== Sys2Proof/Certificates/Slice0/Obligations.lean ====
section
/-! DEFINITION. The statements for the provers. A statement of what a command does concludes that exec answers a next
state and says what that state is; what it does not name is unchanged. `t.out` may always follow the state: the law
of the outputs is a statement of its own. -/

open Sys2Proof Sys2Proof.Machine

/-! ### Steps -/

/-- A step runs the command at the front of the queue on the state with the queue's rest (the model's queue,
notes/assumptions/1.md). -/
def Obligations.FrontCommandRuns : Prop :=
  ∀ (command : Instr) (rest : List Instr) (s : State),
    step (s.withPending (command :: rest)) = exec command (s.withPending rest)

/-- On an empty queue the block writes the next record of a checkpoint in progress, or begins a checkpoint handed
over, or takes its oldest other work; with none of these, and with power, one millisecond passes. In OPERATING every
level filter looks at its line and a level that has stood against it for 2 or 20 ms raises its edge, run-ms rises with
MOTOR_RUN high, and at a run-hour boundary returns to 0, run-hours rises and the boundary goes to the Forecast Unit,
inbound ages, transit ages and blocked times (in RUNNING), claim ages, the clear hold, the PENDING hold and both
timers advance, and each one whose time has run raises its command; RESET's filter, MUTE's second and the lamp's phase
advance in every state (the model's choice, notes/assumptions/1.md, 4.md, 9.md, 11.md, 32.md, 34.md and 39.md, of when
a millisecond passes, of the order of its events and of the levels that count in it; R2 to R6, R9, R11, R12, R14, R18,
R26, R32, R33, R36, R95, R112, R143, R153, R175). -/
def Obligations.EmptyQueueTakesWorkOrAMillisecond : Prop :=
  ∀ s : State, s.pending = [] →
    let writing := s.node = .operating ∧ s.account.due ≠ []
    let raw (fn : LineFn) : Bool := (s.cfg.functions.zip s.pins.lines).any fun p => decide (p.1 = fn ∧ p.2 = true)
    let stood (l : LevelLine) (high : Bool) (ms : Nat) : Nat := if high = l.level then 0 else min ms (l.held + 1)
    let sampled (l : LevelLine) (fn : LineFn) (ms : Nat) : LevelLine := { l with held := stood l (raw fn) ms }
    let followed (l : LevelLine) (fn : LineFn) (ms : Nat) : LevelLine :=
      if ms ≤ stood l (raw fn) ms then { level := raw fn, held := 0 } else sampled l fn ms
    let edge (l : LevelLine) (ms : Nat) (rise fall : Instr) : List Instr :=
      if ms ≤ l.held then [if l.level = true then fall else rise] else []
    let when (condition : Bool) (command : Instr) : List Instr := if condition then [command] else []
    let reset : LevelLine := { s.resetLine with held := stood s.resetLine s.pins.reset 20 }
    let mute := s.bus.muteMs.map fun ms => min 1000 (ms + 1)
    let always : State :=
      { s with
        resetLine := reset
        bus := { s.bus with muteMs := mute }
        out := { s.out with lampPhase := (s.out.lampPhase + 1) % 1000 } }
    let alwaysDue := edge reset 20 (.resetRise s.pins.straps) .resetFall ++ when (mute == some 1000) .muteEnd
    let running := s.tracker.sectionState = .running
    let motor := s.lines.levels.motorRun.level = true
    let old := s.lines.levels
    let levels : Levels :=
      { entryEye := sampled old.entryEye .entryEye 2
        straightEye := sampled old.straightEye .straightEye 2
        divertEye := sampled old.divertEye .divertEye 2
        motorRun := sampled old.motorRun .motorRun 20
        maint := sampled old.maint .maint 20
        confirm := followed old.confirm .confirm 20
        decline := followed old.decline .decline 20
        classes :=
          (([0, 1, 2, 3, 4, 5] : List (Fin 6)).zip old.classes).map fun p => followed p.2 (.classLine p.1) 2 }
    let latch : BitVec 6 := BitVec.ofNat 6 (levels.classes.foldr (fun l value => 2 * value + l.level.toNat) 0)
    let tracker : Tracker :=
      { s.tracker with
        inbound := s.tracker.inbound.map fun e => { e with age := e.age + 1 }
        pieces := if running then s.tracker.pieces.map fun p => { p with age := p.age + 1 } else s.tracker.pieces
        entryBlocked :=
          if running ∧ old.entryEye.level = true then s.tracker.entryBlocked + 1 else s.tracker.entryBlocked
        straightBlocked :=
          if running ∧ old.straightEye.level = true then s.tracker.straightBlocked + 1 else s.tracker.straightBlocked
        divertBlocked :=
          if running ∧ old.divertEye.level = true then s.tracker.divertBlocked + 1 else s.tracker.divertBlocked
        clearHold := s.tracker.clearHold.map fun ms => min 2000 (ms + 1) }
    let view := s.planner.view.map fun e => { e with age := min 100000 (e.age + 1) }
    let hold := s.planner.pendingHold.map fun ms => min 5000 (ms + 1)
    let hour := motor ∧ 3600000 ≤ s.lines.runMs + 1
    let sampleMs := (s.lines.sampleMs + 1) % 250
    let refreshMs := (s.lines.refreshMs + 1) % 30000
    let edges :=
      edge levels.entryEye 2 (.arrival latch) (.eyeClear .entry) ++
        edge levels.straightEye 2 (.departure .straight) (.eyeClear .straight) ++
        edge levels.divertEye 2 (.departure .divert) (.eyeClear .divert) ++
        edge levels.motorRun 20 .motorStart .motorStop ++ edge levels.maint 20 .maintRise .maintFall ++
        when (levels.confirm.level && !old.confirm.level) .confirm ++
        when (levels.decline.level && !old.decline.level) .decline
    let timers :=
      when (decide running && tracker.pieces.head?.any fun p => decide (s.cfg.tTransit < p.age)) .transitJam ++
        when
          (decide
            (running ∧
              (s.cfg.tBlock < tracker.entryBlocked ∨ s.cfg.tBlock < tracker.straightBlocked ∨
                s.cfg.tBlock < tracker.divertBlocked)))
          .blockedJam ++
        when (tracker.clearHold == some 2000) .clearHoldComplete ++
        ((view.filter fun e => decide (100000 ≤ e.age)).map fun e => .claimEntryAgeOut e.address) ++
        when (hold == some 5000) .pendingHoldExpiry ++
        when (sampleMs == 0) .samplePeriodEnd ++ when (refreshMs == 0) .claimRefresh
    (∀ name rest, s.account.due = name :: rest → s.node = .operating →
      step s =
        .next
          (match name with
           | .component i =>
             { s with
               account :=
                 { s.account with
                   due := rest, records := s.account.records.write (.component i (s.comp i).dyn) }
               comps := s.comps.set i { s.comp i with marked := false } }
           | .order i =>
             { s with
               account :=
                 { s.account with due := rest, records := s.account.records.write (.order i (s.orders.at i)) }
               orders := { s.orders with marks := s.orders.marks.set i false } }
           | .node =>
             { s with
               account :=
                 { s.account with
                   due := rest, records := s.account.records.write (.node s.nodeRecord), nodeMarked := false } })) ∧
    (∀ rest, s.handed = .checkpoint :: rest → s.node = .operating → s.account.due = [] →
      step s =
        .next
          { s with
            handed := rest
            account :=
              { s.account with
                due :=
                  ((List.range 32).filter fun i => (s.comp i).marked).map .component ++
                    ((List.range 32).filter fun i => s.orders.marks.getD i false).map .order ++
                    (if s.account.nodeMarked = true then [.node] else []) } }) ∧
    (∀ work rest, s.handed = work :: rest → ¬writing → s.node ≠ .operating ∨ work ≠ .checkpoint →
      step s = .next { s with pending := [work] }) ∧
    (¬writing → s.handed = [] → s.power = false → step s = .next s) ∧
    (s.handed = [] → s.power = true → s.node ≠ .operating → step s = .next { always with pending := alwaysDue }) ∧
    (s.handed = [] → s.power = true → s.node = .operating → s.account.due = [] →
      step s =
        .next
          { always with
            lines :=
              { s.lines with
                levels := levels
                sampleMs := sampleMs
                refreshMs := refreshMs
                runMs :=
                  if hour then 0 else if motor then s.lines.runMs + 1 else s.lines.runMs
                runHours := if hour then min 16777215 (s.lines.runHours + 1) else s.lines.runHours }
            tracker := tracker
            planner := { s.planner with view := view, pendingHold := hold }
            account := { s.account with nodeMarked := s.account.nodeMarked || decide motor }
            handed := if hour then [.runHourBoundary] else []
            pending := edges ++ timers ++ alwaysDue })

/-- Outside OPERATING the edges, presses, pulses, timers and notices heard change nothing, and work handed to the Wear
Engine, the Forecast Unit and the store is only no longer outstanding (R3, R39, R79, R95, R138, R148, R152, R162, R173, R175). In every state
a notice for the tracker or the planner whose source is not 1 to 62, or is the node's own address, is not taken. That a
command whose event cannot arise there changes nothing is the model's choice (notes/assumptions/2.md), and so is the
refusal of a source by the command that names it (notes/assumptions/20.md). -/
def Obligations.CommandsNotTakenChangeNothing : Prop :=
  ∀ (s : State) (line : Nat) (latch : BitVec 6) (exit : ExitPath) (eye : Eye) (a source : Addr) (tag : Tag)
    (thickness mass : PieceClass) (phantom : Bool) (count n : Nat) (urgency due : Byte) (hours : BitVec 16),
    let timed : List Instr :=
      [.motorStart, .motorStop, .maintRise, .maintFall, .confirm, .decline, .samplePeriodEnd, .claimRefresh,
        .transitJam, .blockedJam, .clearHoldComplete, .pendingHoldExpiry, .pulseCounted line,
        .arrival latch, .departure exit, .eyeClear eye, .claimEntryAgeOut a]
    let work : List Instr :=
      [.checkpoint, .startSurcharge, .jamSurcharge, .pieceCredit thickness mass exit phantom,
        .distanceCredit count, .replace n, .runHourBoundary]
    let heard : List Instr :=
      [.passageReceived source tag thickness mass exit phantom, .jamReceived source, .takenHeard source,
        .claimReceived source urgency due hours, .withdrawReceived source]
    (s.node ≠ .operating →
      (∀ command ∈ timed ++ heard, exec command s = .next s) ∧
        ∀ command ∈ work, exec command s = .next { s with handed := s.handed.erase command }) ∧
    (source.toNat = 0 ∨ source.toNat = 63 ∨ source = s.straps.addr →
      ∀ command ∈ heard, exec command s = .next s)

/-! ### Power, reset and start -/

/-- POWER_ON and RESET_RISE enter STARTING with the straps read, the bus side SILENCED for an address of 0 or 63,
both outputs safe and the store as it was (R13, R14, R176). That everything volatile stands at its value after power-on
from then on is the model's reading (notes/assumptions/21.md, DEDUCED); that POWER_ON with power on, and RESET_RISE with
RESET high, change nothing is the model's choice (notes/assumptions/25.md). -/
def Obligations.StartingReadsTheStraps : Prop :=
  ∀ (straps : Straps) (high : Bool) (s : State),
    let started (resetHigh : Bool) : State :=
      { State.reset with
        power := true
        node := .starting
        straps := straps
        resetLine := { level := resetHigh, held := 0 }
        pins := { s.pins with straps := straps, reset := resetHigh }
        bus :=
          { State.reset.bus with
            mode := if straps.addr.toNat = 0 ∨ straps.addr.toNat = 63 then .silenced else .active }
        account := { State.reset.account with records := s.account.records }
        out := { lamp := .off, lampPhase := 0, holdRequest := false }
        choices := s.choices
        pending := s.pending }
    (s.power = false → exec (.powerOn straps high) s = .next (started high)) ∧
    (s.power = true → s.resetLine.level = false → exec (.resetRise straps) s = .next (started true)) ∧
    (s.power = true → exec (.powerOn straps high) s = .next s) ∧
    (s.resetLine.level = true → exec (.resetRise straps) s = .next s)

/-- RESET_FALL: from OPERATING every marked record is written; otherwise only the writes of a COMMIT in progress are
completed. The node is held in STARTING, its queue and its handed work gone, both outputs safe (R14, R79, R127, R181).
That everything volatile stands at its value after power-on from then on is the model's reading
(notes/assumptions/21.md, DEDUCED); that a RESET_FALL with RESET already low acts alike, and one without power not at all,
is the model's choice (notes/assumptions/25.md). -/
def Obligations.ResetFallWritesAndClears : Prop :=
  ∀ s : State, WidthLaw s → ConfigLaw s →
    (s.power = false → exec .resetFall s = .next s) ∧
    (s.power = true → ∃ t, exec .resetFall s = .next t ∧
      (s.node = .operating → CheckpointOf s t.account.records) ∧
      (s.node ≠ .operating → t.account.records = s.account.records.writeAll s.account.writes) ∧
      t =
        { State.reset with
          power := true
          node := .starting
          straps := s.straps
          resetLine := { level := false, held := 0 }
          pins := { s.pins with reset := false }
          bus :=
            { State.reset.bus with
              mode := if s.straps.addr.toNat = 0 ∨ s.straps.addr.toNat = 63 then .silenced else .active }
          account := { State.reset.account with records := t.account.records }
          out := { lamp := .off, lampPhase := 0, holdRequest := false }
          choices := s.choices
          pending := s.pending })

/-- POWER_LOSS leaves only the store: of a COMMIT in progress the writes begun are done, in order, and nothing else is
written, so that a checkpoint leaves the records it has written (R110, R174, R181). Each write puts its one record
whole, with the check word over its contents (R174). Which records of a checkpoint are written when is the model's choice
(notes/assumptions/9.md), and so is the state without power (notes/assumptions/6.md). -/
def Obligations.PowerLossLeavesTheStore : Prop :=
  ∀ (begun : Nat) (s : State),
    let after (st : Store) : State :=
      { State.reset with
        pins := s.pins
        account := { State.reset.account with records := st }
        out := { lamp := .off, lampPhase := 0, holdRequest := false }
        choices := s.choices
        pending := s.pending }
    (s.power = false → exec (.powerLoss begun) s = .next s) ∧
    (s.power = true →
      exec (.powerLoss begun) s = .next (after (s.account.records.writeAll (s.account.writes.take begun)))) ∧
    ∀ (st : Store) (i : Nat) (c : Configuration) (d : DynRecord) (o : OrderRecord) (n : NodeRecord) (w : StoreWrite)
      (ws : List StoreWrite),
      st.write (.config c) = { st with config := stored Config.configurationBytes c } ∧
        st.write (.component i d) = { st with components := st.components.set i (stored Config.componentBytes d) } ∧
        st.write (.order i o) = { st with orders := st.orders.set i (stored Config.orderBytes o) } ∧
        st.write (.node n) = { st with node := stored Config.nodeBytes n } ∧
        st.writeAll [] = st ∧ st.writeAll (w :: ws) = (st.write w).writeAll ws

/-- START_COMPLETE goes to the state of the table of R176, with run time, window count, label and commission count as
loaded (a bad node record as zero, its label then from a good configuration record; a configuration that is not good as the
blank one with the label), an empty queue, no pending query, no fault, no item staged, and on entry to OPERATING each filtered level at its
raw level as first sampled with no edge raised, a tracker and a planner that hold nothing, the section state by
MOTOR_RUN, and the announced values equal to the pending ones. The store is as it was but for damage (R3, R9, R11, R12,
R17, R39, R93, R116, R148, R162, R174, R176 to R178, R182). That tracker, forecast and planner stand at their values after
power-on outside OPERATING is the model's reading (notes/assumptions/21.md, DEDUCED), and so is that a list is checked
against the blank configuration where the configuration record is not good (notes/assumptions/41.md, DEDUCED). -/
def Obligations.StartLeavesForTheStateOfTheTable : Prop :=
  ∀ (damage : List StoreDamage) (levels : BitVec 24) (s : State),
    s.power = true → s.node = .starting → s.resetLine.level = true →
    let records := s.account.records.damaged damage
    let configGood : Bool :=
      match records.config with
      | .absent => false
      | .written c check => decide (check = checkWord (payloadBits (Config.configurationBytes c)))
    let node : NodeRecord :=
      match records.node, records.config with
      | .absent, _ => .zero
      | .written n check, config =>
        if check = checkWord (payloadBits (Config.nodeBytes n)) then n
        else
          match configGood, config with
          | true, .written c _ => { NodeRecord.zero with label := c.label, labelCommitted := c.labelCommitted }
          | _, _ => .zero
    let cfg : Configuration :=
      match configGood, records.config with
      | true, .written c _ => c
      | _, _ => { Configuration.blank with label := node.label, labelCommitted := node.labelCommitted }
    let sampled : List Bool := (List.range 24).map fun i => levels.getLsbD i
    ∃ t, exec (.startComplete damage levels) s = .next t ∧
      t.node =
        (if s.straps.commission = true then .commissioning
         else if configGood = true then .operating
         else .unconfigured) ∧
      t.cfg = cfg ∧ t.cfgGood = configGood ∧
      (t.lines.runMs = node.runMs ∧ t.lines.runHours = node.runHours ∧ t.planner.windowCount = node.windowCount) ∧
      t.account =
        { State.reset.account with
          records := records
          nodeMarked := records.found.listBroken
          commissionCount := node.commissionCount
          label := node.label
          labelCommitted := node.labelCommitted
          staging := if s.straps.commission = true then cfg else .blank } ∧
      (damage = [] → t.account.records = s.account.records) ∧
      (t.queue = State.reset.queue ∧ t.query = none ∧ t.handed = [] ∧
        t.bus =
          { State.reset.bus with
            mode := if s.straps.addr.toNat = 0 ∨ s.straps.addr.toNat = 63 then .silenced else .active }) ∧
      (t.power = true ∧ t.resetLine = s.resetLine ∧ t.straps = s.straps ∧ t.choices = s.choices ∧
        t.pending = s.pending ∧ t.pins = { s.pins with lines := t.pins.lines }) ∧
      (t.node ≠ .operating →
        t.tracker = State.reset.tracker ∧ t.forecast = State.reset.forecast ∧ t.pins = s.pins ∧
          t.planner = { State.reset.planner with windowCount := t.planner.windowCount }) ∧
      (t.node = .operating →
        let at' (fn : LineFn) : LevelLine :=
          { level := (t.cfg.functions.zip sampled).any fun p => decide (p.1 = fn ∧ p.2 = true), held := 0 }
        t.pins.lines = sampled ∧
          t.lines.levels =
            { entryEye := at' .entryEye, straightEye := at' .straightEye, divertEye := at' .divertEye
              motorRun := at' .motorRun, maint := at' .maint, confirm := at' .confirm, decline := at' .decline
              classes := ([0, 1, 2, 3, 4, 5] : List (Fin 6)).map fun i => at' (.classLine i) } ∧
          t.lines.counts = List.replicate 24 0 ∧ t.lines.sampleMs = 0 ∧ t.lines.refreshMs = 0 ∧
          t.tracker =
            { State.reset.tracker with
              sectionState := if t.lines.levels.motorRun.level = true then .running else .stopped } ∧
          t.forecast.announced = t.forecast.pending ∧
          t.planner =
            { State.reset.planner with
              windowCount := t.planner.windowCount
              standing := standingOf t.cfg.k t.forecast.pending.urgency t.straps.addr [] })

/-- A start compares each record's check word with its contents, after whatever damage the record has taken, and loads the
records alike on the way to OPERATING and to COMMISSIONING. Each component record of a present slot is taken up as stored
if good, as zero if absent, and if bad at rated life with LOST set; every bad one is marked changed, and no other. The
order list is taken up as stored, with the open count derived from it, when the order records and the node record are good
and keep the law of the ring under the configuration as loaded; it is emptied, every position marked, by a bad order or
node record and by records that break the law. In OPERATING every derived field is worked out afresh (W 1000, H 0, U 255,
OVERLIFE for a bad record) and the open-order flag is set for each present slot that an OPEN order names (R54, R55, R77,
R79, R93, R164, R172 to R174, R177). A good record is taken up as stored even above its slot's cap
(notes/assumptions/29.md, DEDUCED) and with a slip above 0 where its slot is not measured (notes/assumptions/42.md,
DEDUCED); one of a slot that is not present is loaded as zero (notes/assumptions/19.md, DEDUCED). The derived fields in
COMMISSIONING (notes/assumptions/40.md), and that without a good configuration record no slot is present for the law of the
ring (notes/assumptions/41.md), are the model's. -/
def Obligations.StartTakesUpTheStoredRecords : Prop :=
  ∀ (damage : List StoreDamage) (levels : BitVec 24) (s : State),
    s.power = true → s.node = .starting → s.resetLine.level = true → ConfigLaw s → WidthLaw s →
    let records := s.account.records.damaged damage
    let loaded : Option Configuration :=
      match records.config with
      | .absent => none
      | .written c check => if check = checkWord (payloadBits (Config.configurationBytes c)) then some c else none
    let ring (p : Nat) : OrderRecord :=
      match records.orders.getD p .absent with
      | .written o _ => o
      | .absent => .empty
    let node : NodeRecord :=
      match records.node with
      | .written n _ => n
      | .absent => .zero
    let badList := records.node.Bad Config.nodeBytes ∨ ∃ r ∈ records.orders, r.Bad Config.orderBytes
    let count :=
      if node.head = node.tail then (if (ring node.head).status = .opened then 32 else 0)
      else (node.tail + 32 - node.head) % 32
    let lawful (c : Configuration) : Prop :=
      (∀ p < 32, (ring p).status = .opened ↔ (p + 32 - node.head) % 32 < count) ∧
        (∀ p < 32, (ring p).status = .opened → (c.slot (ring p).slot).present = true) ∧
        ∀ p < 32, ∀ q < 32,
          (ring p).status = .opened → (ring q).status = .opened → (ring p).slot = (ring q).slot → p = q
    ∃ t, exec (.startComplete damage levels) s = .next t ∧
      (∀ c, loaded = some c →
        t.cfg = c ∧ t.node = (if s.straps.commission = true then .commissioning else .operating)) ∧
      (loaded = none → t.node ≠ .operating ∧ ∀ i < 32, (t.cfg.slot i).present = false) ∧
      t.comps.length = 32 ∧
      (∀ i < 32,
        let r := records.components.getD i .absent
        ((t.cfg.slot i).present = true →
          (∀ d, r = stored Config.componentBytes d → (t.comp i).dyn = d) ∧
          (r = .absent → (t.comp i).dyn = DynRecord.zero) ∧
          (r.Bad Config.componentBytes →
            (t.comp i).dyn =
              { account := (t.cfg.slot i).life * 2 ^ 28, slip := 0, rate := 0, rateValid := false, hourDelta := 0,
                serviceCount := 0, lost := true })) ∧
        ((t.cfg.slot i).present = false → (t.comp i).dyn = DynRecord.zero) ∧
        ((t.comp i).marked = true ↔ r.Bad Config.componentBytes)) ∧
      (badList ∨ ¬lawful t.cfg →
        t.orders =
            { ring := List.replicate 32 .empty, marks := List.replicate 32 true, head := 0, tail := 0,
              openCount := 0 } ∧
          t.account.nodeMarked = true) ∧
      (¬badList → lawful t.cfg →
        t.orders =
            { ring := (List.range 32).map ring, marks := List.replicate 32 false, head := node.head
              tail := node.tail, openCount := count } ∧
          t.account.nodeMarked = false) ∧
      (t.node = .operating →
        (∀ i < 32, (t.cfg.slot i).present = true →
          (t.comp i).hours = hoursOf (t.cfg.slot i).life (t.comp i).dyn ∧
            RecordLaw t.cfg (t.cfg.slot i) (t.comp i) ∧
            ((records.components.getD i .absent).Bad Config.componentBytes →
              (t.comp i).wear = 1000 ∧ (t.comp i).hours = 0 ∧ (t.comp i).urgency = 255 ∧
                (t.comp i).band = .overlife)) ∧
        ForecastOf t.cfg.slots t.comps t.forecast.pending ∧
        ∀ i < 32,
          ((t.comp i).openOrder = true ↔
            (t.cfg.slot i).present = true ∧
              ∃ p < 32, (t.orders.at p).status = .opened ∧ (t.orders.at p).slot = i)) ∧
      (t.node ≠ .operating →
        ∀ i < 32, t.comp i = { Component.zero with dyn := (t.comp i).dyn, marked := (t.comp i).marked })

/-! ### Checkpoint -/

/-- CHECKPOINT in OPERATING writes every record marked changed as it stands, clears the marks and changes nothing else of
the state; no record is left to write (R10, R175). That a CHECKPOINT which the sender names writes them all in one step is
the model's choice (notes/assumptions/9.md); one that a period end hands on is written record by record. -/
def Obligations.CheckpointStoresEveryMarkedRecord : Prop :=
  ∀ s : State, s.node = .operating → WidthLaw s →
    ∃ t, exec .checkpoint s = .next t ∧ CheckpointOf s t.account.records ∧
      t =
        { s with
          comps := s.comps.map fun c => { c with marked := false }
          orders := { s.orders with marks := List.replicate 32 false }
          account := { s.account with records := t.account.records, nodeMarked := false, due := [] }
          handed := s.handed.erase .checkpoint
          out := t.out }

/-! ### Piece tracking -/

/-- ARRIVAL in RUNNING or STOPPED with room in the list: the stale entries go and are counted, the oldest entry kept is
taken if there is one, and a record with its tag and classes (R24), or with an own-assigned tag, joins at the tail with
age 0. One that finds eight records is a CROWDED jam: the sweep runs, the oldest entry goes uncounted, and the jam
actions follow; no record is made (R7, R21, R23 to R26, R34). -/
def Obligations.ArrivalMakesAPieceRecord : Prop :=
  ∀ (latch : BitVec 6) (s : State), s.node = .operating → s.tracker.sectionState ≠ .jammed →
    let kept := s.tracker.inbound.filter fun e => decide (e.age ≤ s.cfg.tHand)
    let oldest := (s.tracker.pieces.map fun p => p.tag).headD 0
    (s.tracker.pieces.length < 8 →
      ∃ t, exec (.arrival latch) s = .next t ∧
        (∀ e rest, kept = e :: rest →
          t.tracker.inbound = rest ∧
          t.tracker.pieces =
            s.tracker.pieces ++
              [{ tag := e.tag
                 thickness := if s.cfg.classSource = .default then s.cfg.defThickness else e.thickness
                 mass := if s.cfg.classSource = .default then s.cfg.defMass else e.mass
                 age := 0 }] ∧
          t.tracker.tagSeq = s.tracker.tagSeq ∧ t.tracker.untagged = s.tracker.untagged) ∧
        (kept = [] →
          let byLines := s.cfg.classSource = .classLines ∧ s.cfg.assigned (.classLine 0) = true
          t.tracker.inbound = [] ∧
          t.tracker.pieces =
            s.tracker.pieces ++
              [{ tag := BitVec.ofNat 16 (s.straps.addr.toNat * 1024 + s.tracker.tagSeq)
                 thickness :=
                   if byLines then
                     BitVec.ofNat 3
                       (4 * (latch.getLsbD 2).toNat + 2 * (latch.getLsbD 1).toNat + (latch.getLsbD 0).toNat)
                   else s.cfg.defThickness
                 mass :=
                   if byLines then
                     BitVec.ofNat 3
                       (4 * (latch.getLsbD 5).toNat + 2 * (latch.getLsbD 4).toNat + (latch.getLsbD 3).toNat)
                   else s.cfg.defMass
                 age := 0 }] ∧
          t.tracker.tagSeq = (s.tracker.tagSeq + 1) % 1024 ∧
          t.tracker.untagged = min 65535 (s.tracker.untagged + 1)) ∧
        t.tracker.missing =
          min 65535 (s.tracker.missing + (s.tracker.inbound.length - kept.length)) ∧
        t =
          { s with
            tracker :=
              { s.tracker with
                inbound := t.tracker.inbound
                pieces := t.tracker.pieces
                entryBlocked := 0
                tagSeq := t.tracker.tagSeq
                missing := t.tracker.missing
                untagged := t.tracker.untagged }
            lines := (s.edge .entryEye true).lines
            pins := (s.edge .entryEye true).pins
            out := t.out }) ∧
    (s.tracker.pieces.length = 8 →
      ∃ t, exec (.arrival latch) s = .next t ∧
        t =
          { s.offer { priority := 0, body := .jam .crowded 8 oldest } with
            tracker :=
              { s.tracker with
                sectionState := .jammed
                inbound := kept.drop 1
                pieces := []
                entryBlocked := 0
                straightBlocked := 0
                divertBlocked := 0
                clearHold := none
                missing := min 65535 (s.tracker.missing + (s.tracker.inbound.length - kept.length))
                jams := min 65535 (s.tracker.jams + 1) }
            lines := (s.edge .entryEye true).lines
            pins := (s.edge .entryEye true).pins
            handed := s.handed ++ [.jamSurcharge]
            out := t.out })

/-- A DEPARTURE that finds a record removes the oldest, requests its piece credit, queues its PASSAGE where the exit is
announced and counts it; a new head already above T_transit jams on that removal, by the jam actions with cause TRANSIT.
One that finds the list empty is a phantom: credit at the default classes, a PASSAGE with an own-assigned tag where the
exit is announced, and the phantom count (R25, R28 to R30, R32, R34, R68). That such a head jams in RUNNING only is the
model's reading (notes/assumptions/18.md, DEDUCED). By an exit with no eye assigned there is no departure (R4;
notes/assumptions/2.md). -/
def Obligations.DepartureRemovesTheOldestRecord : Prop :=
  ∀ (exit : ExitPath) (s : State), s.node = .operating →
    (s.cfg.assigned (exitFn exit) = false → exec (.departure exit) s = .next s) ∧
    (s.tracker.sectionState ≠ .jammed → s.cfg.assigned (exitFn exit) = true →
    let announced := exit = .straight ∨ s.cfg.announceDivert = true
    (∀ p rest, s.tracker.pieces = p :: rest →
      let overdue :=
        s.tracker.sectionState = .running ∧ (rest.head?.any fun q => decide (s.cfg.tTransit < q.age)) = true
      let credit := Instr.pieceCredit p.thickness p.mass exit false
      let told : State :=
        if announced then s.offer { priority := 0, body := .passage p.tag p.thickness p.mass exit false } else s
      let departed := min 65535 (s.tracker.departed + 1)
      (¬overdue →
        ∃ t, exec (.departure exit) s = .next t ∧
          t =
            { told with
              tracker :=
                { s.tracker with
                  pieces := rest
                  departed := departed
                  straightBlocked := if exit = .straight then 0 else s.tracker.straightBlocked
                  divertBlocked := if exit = .divert then 0 else s.tracker.divertBlocked }
              lines := (s.edge (exitFn exit) true).lines
              pins := (s.edge (exitFn exit) true).pins
              handed := s.handed ++ [credit]
              out := t.out }) ∧
      (overdue →
        ∃ t, exec (.departure exit) s = .next t ∧
          t =
            { told.offer
                { priority := 0
                  body := .jam .transit rest.length ((rest.map fun q => q.tag).headD 0) } with
              tracker :=
                { s.tracker with
                  sectionState := .jammed
                  pieces := []
                  departed := departed
                  entryBlocked := 0
                  straightBlocked := 0
                  divertBlocked := 0
                  clearHold := none
                  jams := min 65535 (s.tracker.jams + 1) }
              lines := (s.edge (exitFn exit) true).lines
              pins := (s.edge (exitFn exit) true).pins
              handed := s.handed ++ [credit, .jamSurcharge]
              out := t.out })) ∧
    (s.tracker.pieces = [] →
      ∃ t, exec (.departure exit) s = .next t ∧
        t =
          { (if announced then
               s.offer
                 { priority := 0
                   body :=
                     .passage (BitVec.ofNat 16 (s.straps.addr.toNat * 1024 + s.tracker.tagSeq)) s.cfg.defThickness
                       s.cfg.defMass exit true }
             else s) with
            tracker :=
              { s.tracker with
                phantom := min 65535 (s.tracker.phantom + 1)
                tagSeq := if announced then (s.tracker.tagSeq + 1) % 1024 else s.tracker.tagSeq
                straightBlocked := if exit = .straight then 0 else s.tracker.straightBlocked
                divertBlocked := if exit = .divert then 0 else s.tracker.divertBlocked }
            lines := (s.edge (exitFn exit) true).lines
            pins := (s.edge (exitFn exit) true).pins
            handed := s.handed ++ [.pieceCredit s.cfg.defThickness s.cfg.defMass exit true]
            out := t.out }))

/-- EYE_CLEAR of an assigned eye: its level falls and its blocked time returns to 0; in JAMMED the clear hold runs on
or starts if MOTOR_RUN is low and every assigned eye is clear, and otherwise none runs (R33, R36). -/
def Obligations.EyeClearEndsItsBlockedTime : Prop :=
  ∀ (eye : Eye) (s : State), s.node = .operating → s.cfg.assigned (eyeFn eye) = true →
    ∃ t, exec (.eyeClear eye) s = .next t ∧
      (s.tracker.sectionState ≠ .jammed → t.tracker.clearHold = s.tracker.clearHold) ∧
      (s.tracker.sectionState = .jammed →
        t.tracker.clearHold =
          if t.lines.levels.motorRun.level = false ∧ t.lines.levels.entryEye.level = false ∧
              t.lines.levels.straightEye.level = false ∧
              (s.cfg.assigned .divertEye = true → t.lines.levels.divertEye.level = false)
          then some (s.tracker.clearHold.getD 0) else none) ∧
      t =
        { s with
          tracker :=
            { s.tracker with
              entryBlocked := if eye = .entry then 0 else s.tracker.entryBlocked
              straightBlocked := if eye = .straight then 0 else s.tracker.straightBlocked
              divertBlocked := if eye = .divert then 0 else s.tracker.divertBlocked
              clearHold := t.tracker.clearHold }
          lines := (s.edge (eyeFn eye) false).lines
          pins := (s.edge (eyeFn eye) false).pins
          out := t.out }


/-- MOTOR_START takes STOPPED to RUNNING, leaves JAMMED with no clear hold running and requests the start surcharge;
MOTOR_STOP takes RUNNING to STOPPED, and in JAMMED the clear hold starts if every assigned eye is clear (R5, R17, R36,
R67). -/
def Obligations.MotorEdgesMoveTheSection : Prop :=
  ∀ s : State, s.node = .operating →
    (∃ t, exec .motorStart s = .next t ∧
      t =
        { s with
          tracker :=
            { s.tracker with
              sectionState := if s.tracker.sectionState = .jammed then .jammed else .running
              clearHold := if s.tracker.sectionState = .jammed then none else s.tracker.clearHold }
          lines := (s.edge .motorRun true).lines
          pins := (s.edge .motorRun true).pins
          handed := s.handed ++ [.startSurcharge]
          out := t.out }) ∧
    ∃ t, exec .motorStop s = .next t ∧
      (s.tracker.sectionState ≠ .jammed → t.tracker.clearHold = s.tracker.clearHold) ∧
      (s.tracker.sectionState = .jammed →
        t.tracker.clearHold =
          if s.lines.levels.entryEye.level = false ∧ s.lines.levels.straightEye.level = false ∧
              (s.cfg.assigned .divertEye = true → s.lines.levels.divertEye.level = false)
          then some (s.tracker.clearHold.getD 0) else none) ∧
      t =
        { s with
          tracker :=
            { s.tracker with
              sectionState := if s.tracker.sectionState = .jammed then .jammed else .stopped
              clearHold := t.tracker.clearHold }
          lines := (s.edge .motorRun false).lines
          pins := (s.edge .motorRun false).pins
          out := t.out }

/-- A transit age above T_transit, or a blocked time above T_block, in RUNNING brings the jam actions: JAMMED, one JAM
notice, one jam surcharge request, the list emptied, the count raised, every blocked time 0; the inbound queue is
kept. Where the age or the time is not above its limit, or the section is not RUNNING, there is no jam (R32 to R34,
R37; that the command then changes nothing is the model's choice, notes/assumptions/4.md). -/
def Obligations.OverdueAgesJamTheSection : Prop :=
  ∀ s : State, s.node = .operating →
    let jamState (cause : JamCause) (out : Outputs) : State :=
      { s.offer
          { priority := 0
            body := .jam cause s.tracker.pieces.length ((s.tracker.pieces.map fun p => p.tag).headD 0) } with
        tracker :=
          { s.tracker with
            sectionState := .jammed
            pieces := []
            entryBlocked := 0
            straightBlocked := 0
            divertBlocked := 0
            clearHold := if s.clearCondition = true then some 0 else none
            jams := min 65535 (s.tracker.jams + 1) }
        handed := s.handed ++ [.jamSurcharge]
        out := out }
    let aged := ∃ p, s.tracker.pieces.head? = some p ∧ s.cfg.tTransit < p.age
    let blocked :=
      s.cfg.tBlock < s.tracker.entryBlocked ∨ s.cfg.tBlock < s.tracker.straightBlocked ∨
        s.cfg.tBlock < s.tracker.divertBlocked
    (s.tracker.sectionState = .running → aged →
      ∃ t, exec .transitJam s = .next t ∧ t = jamState .transit t.out) ∧
    (s.tracker.sectionState = .running → blocked →
      ∃ t, exec .blockedJam s = .next t ∧ t = jamState .blocked t.out) ∧
    (s.tracker.sectionState ≠ .running ∨ ¬aged → exec .transitJam s = .next s) ∧
    (s.tracker.sectionState ≠ .running ∨ ¬blocked → exec .blockedJam s = .next s)

/-- In JAMMED an arrival and a departure are ignored: no credit, notice or count, but the rising eye breaks the clear
hold. CLEAR_HOLD_COMPLETE: JAMMED goes to STOPPED with an empty list and every blocked time 0 once the clear condition
has held for 2 s, and not before (R35, R36). -/
def Obligations.JammedWaitsForItsClearHold : Prop :=
  ∀ (latch : BitVec 6) (exit : ExitPath) (s : State),
    s.node = .operating → s.tracker.sectionState = .jammed →
    let clear :=
      s.lines.levels.motorRun.level = false ∧ s.lines.levels.entryEye.level = false ∧
        s.lines.levels.straightEye.level = false ∧
        (s.cfg.assigned .divertEye = true → s.lines.levels.divertEye.level = false)
    let broken (fn : LineFn) (out : Outputs) : State :=
      { s with
        tracker := { s.tracker with clearHold := none }
        lines := (s.edge fn true).lines
        pins := (s.edge fn true).pins
        out := out }
    (∃ t, exec (.arrival latch) s = .next t ∧ t = broken .entryEye t.out) ∧
    (s.cfg.assigned (exitFn exit) = true →
      ∃ t, exec (.departure exit) s = .next t ∧ t = broken (exitFn exit) t.out) ∧
    (clear → (∃ ms, s.tracker.clearHold = some ms ∧ 2000 ≤ ms) →
      ∃ t, exec .clearHoldComplete s = .next t ∧
        t =
          { s with
            tracker :=
              { s.tracker with
                sectionState := .stopped
                pieces := []
                entryBlocked := 0
                straightBlocked := 0
                divertBlocked := 0
                clearHold := none }
            out := t.out }) ∧
    (¬clear ∨ (∀ ms, s.tracker.clearHold = some ms → ms < 2000) → exec .clearHoldComplete s = .next s)

/-- A PASSAGE of a configured upstream source and exit joins the inbound queue at its tail with age 0, a full queue
losing its oldest entry counted as missing; any other is ignored. A JAM of a configured source removes its entries
uncounted; any other is ignored (R19, R20, R22). -/
def Obligations.UpstreamNoticesFeedTheInboundQueue : Prop :=
  ∀ (source : Addr) (tag : Tag) (thickness mass : PieceClass) (exit : ExitPath) (phantom : Bool) (s : State),
    s.node = .operating → s.acceptsSource source = true →
    let passage := Instr.passageReceived source tag thickness mass exit phantom
    let full := s.tracker.inbound.length = 16
    ((∃ u ∈ s.cfg.upstream, u.inUse = true ∧ u.address = source ∧ u.exit = exit) →
      s.tracker.inbound.length ≤ 16 →
      ∃ t, exec passage s = .next t ∧
        t =
          { s with
            tracker :=
              { s.tracker with
                inbound :=
                  (if full then s.tracker.inbound.tail else s.tracker.inbound) ++
                    [{ source := source, tag := tag, thickness := thickness, mass := mass, age := 0 }]
                missing := if full then min 65535 (s.tracker.missing + 1) else s.tracker.missing }
            out := t.out }) ∧
    ((∀ u ∈ s.cfg.upstream, ¬(u.inUse = true ∧ u.address = source ∧ u.exit = exit)) →
      exec passage s = .next s) ∧
    ((∃ u ∈ s.cfg.upstream, u.inUse = true ∧ u.address = source) →
      ∃ t, exec (.jamReceived source) s = .next t ∧
        t =
          { s with
            tracker :=
              { s.tracker with inbound := s.tracker.inbound.filter fun e => decide (e.source ≠ source) }
            out := t.out }) ∧
    ((∀ u ∈ s.cfg.upstream, ¬(u.inUse = true ∧ u.address = source)) →
      exec (.jamReceived source) s = .next s)

/-! ### Pulses, periods and hours -/

/-- PULSE_COUNTED adds 1 to the count of an ENCODER or TACH line, which stays at 65535, and to nothing else; a line of
another function has no pulses (R8). -/
def Obligations.PulsesAreCountedToTheirTop : Prop :=
  ∀ (line : Nat) (s : State), s.node = .operating → WidthLaw s → line < 24 →
    (s.cfg.fn line = .encoder ∨ s.cfg.fn line = .tach →
      ∃ t, exec (.pulseCounted line) s = .next t ∧
        (∀ other < 24,
          t.lines.counts.getD other 0 =
            if other = line then min 65535 (s.lines.counts.getD other 0 + 1)
            else s.lines.counts.getD other 0) ∧
        t.lines.counts.length = 24 ∧
        t = { s with lines := { s.lines with counts := t.lines.counts }, out := t.out }) ∧
    (s.cfg.fn line ≠ .encoder → s.cfg.fn line ≠ .tach → exec (.pulseCounted line) s = .next s)

/-- SAMPLE_PERIOD_END: every count restarts at 0; the inbound queue is swept; a TAKEN owed in CONTENDING is handed
over again with the values kept; with MOTOR_RUN high the encoder count goes to the Wear Engine, and always the period
end to the store. With MOTOR_RUN high the slip of each present roller that names a tach line is held below an expected
count of 32 and else becomes (3 × s + sample) / 4; nothing else of a record changes but its mark, and with MOTOR_RUN low
no record is touched (R10, R21, R41 to R44, R47, R157, R175). That the slips are updated before the checkpoint of the
same period end can reach a record is the model's choice (notes/assumptions/33.md). -/
def Obligations.PeriodEndTakesItsCounts : Prop :=
  ∀ s : State, s.node = .operating → ConfigLaw s → WidthLaw s →
    let again : State :=
      match s.planner.takenValues with
      | some v =>
        if s.planner.takenOwed = true ∧ s.planner.window = .contending then
          { s with planner := { s.planner with takenOwed := false } }.offer
            { priority := 255 - v.urgency, body := .taken v }
        else s
      | none => s
    ∃ t encoder, exec .samplePeriodEnd s = .next t ∧
      (∀ line < 24, s.cfg.fn line = .encoder → encoder = s.lines.counts.getD line 0) ∧
      (s.cfg.assigned .encoder = false → encoder = 0) ∧
      (s.lines.levels.motorRun.level = false ∨ s.cfg.assigned .encoder = false → t.comps = s.comps) ∧
      (s.lines.levels.motorRun.level = true → s.cfg.assigned .encoder = true →
        ∀ i < Config.slots,
          let sl := s.cfg.slot i
          let expected := encoder * sl.ratio / 256
          (∀ tach, sl.present = true → sl.kind ≠ .belt → sl.tach = some tach → 32 ≤ expected →
            (t.comp i).dyn.slip =
              (3 * (s.comp i).dyn.slip +
                  (if expected ≤ s.lines.counts.getD tach 0 then 0
                   else 1000 * (expected - s.lines.counts.getD tach 0) / expected)) / 4) ∧
          (sl.present = false ∨ sl.kind = .belt ∨ sl.tach = none ∨ expected < 32 → t.comp i = s.comp i) ∧
          t.comp i =
            { s.comp i with
              dyn := { (s.comp i).dyn with slip := (t.comp i).dyn.slip }
              marked := (s.comp i).marked || decide ((t.comp i).dyn.slip ≠ (s.comp i).dyn.slip) }) ∧
      t =
        { again with
          lines := { s.lines with counts := List.replicate 24 0 }
          tracker :=
            { s.tracker with
              inbound := s.tracker.inbound.filter fun e => decide (e.age ≤ s.cfg.tHand)
              missing :=
                min 65535
                  (s.tracker.missing +
                    (s.tracker.inbound.length -
                      (s.tracker.inbound.filter fun e => decide (e.age ≤ s.cfg.tHand)).length)) }
          comps := t.comps
          handed :=
            s.handed ++
              (if s.lines.levels.motorRun.level = true then [.distanceCredit encoder, .checkpoint]
               else [.checkpoint])
          out := t.out }

/-- RUN_HOUR_BOUNDARY: every present record folds its hour delta into its rate, clears it and has H, U and band worked
out; each changed band queues its ALERT, in slot order; the pending values follow (R71, R73, R82, R84, R85, R87, R89).
A boundary that the section clock has handed over has turned the counters already and is no longer outstanding; one that
the sender names with none outstanding returns run-ms to 0 and raises run-hours as well (R12, R95; that the two are told
apart so is the model's reading, notes/assumptions/34.md, DEDUCED). -/
def Obligations.RunHourFoldsTheHour : Prop :=
  ∀ s : State, s.node = .operating → ConfigLaw s → WidthLaw s → TableLaw s →
    ∃ t, exec .runHourBoundary s = .next t ∧
      (∀ i < Config.slots,
        let sl := s.cfg.slot i
        let old := s.comp i
        let new := t.comp i
        (sl.present = false → new = old) ∧
        (sl.present = true →
          new.dyn =
              { old.dyn with
                rate :=
                  if old.dyn.rateValid = true then (3 * old.dyn.rate + old.dyn.hourDelta) / 4
                  else old.dyn.hourDelta
                rateValid := true
                hourDelta := 0 } ∧
            new.hours =
              (if sl.life * 2 ^ 28 ≤ old.dyn.account then 0
               else if new.dyn.rate = 0 then 65535
               else min 65535 ((sl.life * 2 ^ 28 - old.dyn.account) / new.dyn.rate)) ∧
            new.urgency = urgencyOf s.cfg.hz s.cfg.tWatch old.wear new.hours ∧
            new.band = bandOf s.cfg.tWatch old.wear new.urgency ∧
            new =
              { old with
                dyn := new.dyn, hours := new.hours, urgency := new.urgency, band := new.band
                marked := old.marked || decide (new.dyn ≠ old.dyn) })) ∧
      t.comps.length = s.comps.length ∧ ForecastOf s.cfg.slots t.comps t.forecast.pending ∧
      t =
        { s.offerAll (bandChanges s.comps t.comps) with
          lines :=
            if .runHourBoundary ∈ s.handed then s.lines
            else { s.lines with runMs := 0, runHours := min 16777215 (s.lines.runHours + 1) }
          account := if .runHourBoundary ∈ s.handed then s.account else { s.account with nodeMarked := true }
          comps := t.comps
          forecast := { s.forecast with pending := t.forecast.pending }
          handed := s.handed.erase .runHourBoundary
          out := t.out }

/-- CLAIM_REFRESH copies the pending values into the announced ones, decides the standing, and queues a CLAIM of the
copied values while they claim, one WITHDRAW when the claim has just ended, and nothing else (R90, R118, R135,
R145). -/
def Obligations.ClaimRefreshCopiesAndClaims : Prop :=
  ∀ s : State, s.node = .operating →
    let v := s.forecast.pending
    let queued : State :=
      if 128 ≤ v.urgency then s.offer { priority := 255 - v.urgency, body := .claim v }
      else if 128 ≤ s.forecast.announced.urgency then s.offer { priority := 255, body := .withdraw }
      else s
    ∃ t, exec .claimRefresh s = .next t ∧
      t =
        { queued with
          forecast := { s.forecast with announced := v }
          planner :=
            { queued.planner with standing := standingOf s.cfg.k v.urgency s.straps.addr s.planner.view }
          out := t.out }

/-! ### Wear -/

/-- PIECE_CREDIT credits TF × MF × SF × Kc ticks to every present record of the request: the COMMON ones unless it is
a phantom, and those of its exit; no other record changes (R46, R56, R59 to R61, R73, R89). -/
def Obligations.PieceCreditChargesTheRecordsTouched : Prop :=
  ∀ (thickness mass : PieceClass) (exit : ExitPath) (phantom : Bool) (s : State),
    s.node = .operating → ConfigLaw s → WidthLaw s → TableLaw s → Capped s →
    ∃ t, exec (.pieceCredit thickness mass exit phantom) s = .next t ∧
      Credited s t (.pieceCredit thickness mass exit phantom) fun sl c =>
        if (sl.path = .common ∧ phantom = false) ∨ (sl.path = .straight ∧ exit = .straight) ∨
            (sl.path = .divert ∧ exit = .divert)
        then
          s.cfg.thicknessFactors.getD thickness.toNat 0 * s.cfg.massFactors.getD mass.toNat 0 *
            min 1023 (256 + c.dyn.slip * s.cfg.g / 64) * sl.weight
        else 0

/-- DISTANCE_CREDIT credits E × D × 4096 ticks, START_SURCHARGE S × 1,048,576 ticks, to every present record, and
JAM_SURCHARGE J × 2^28 ticks to every present COMMON record (R56, R59, R65, R67, R68, R73, R89). -/
def Obligations.SurchargesChargeEveryRecord : Prop :=
  ∀ (count : Nat) (s : State),
    s.node = .operating → ConfigLaw s → WidthLaw s → TableLaw s → Capped s →
    (∃ t, exec (.distanceCredit count) s = .next t ∧
      Credited s t (.distanceCredit count) fun sl _ => count * sl.distance * 4096) ∧
    (∃ t, exec .startSurcharge s = .next t ∧ Credited s t .startSurcharge fun sl _ => sl.start * 1048576) ∧
    (∃ t, exec .jamSurcharge s = .next t ∧
      Credited s t .jamSurcharge fun sl _ => if sl.path = .common then s.cfg.j * 2 ^ 28 else 0)

/-- Two credits to one record whose derived fields agree with its account leave the same record in either order: the
account is the smaller of the cap and the old account plus both increments, and the hour delta grows by the account's
rise, up to its top (R69). -/
def Obligations.CreditsMeetInEitherOrder : Prop :=
  ∀ (cfg : Configuration) (sl : SlotConfig) (c : Component) (first second : Nat),
    sl.present = true → RecordLaw cfg sl c → c.dyn.account ≤ capOf sl.life →
    (c.credit cfg sl first).credit cfg sl second = (c.credit cfg sl second).credit cfg sl first ∧
      ((c.credit cfg sl first).credit cfg sl second).dyn.account =
        min (capOf sl.life) (c.dyn.account + first + second) ∧
      (c.dyn.hourDelta ≤ Config.deltaTop →
        ((c.credit cfg sl first).credit cfg sl second).dyn.hourDelta =
          min Config.deltaTop
            (c.dyn.hourDelta +
              (((c.credit cfg sl first).credit cfg sl second).dyn.account - c.dyn.account)))

/-- Wear is 1000 × A / (L × 2^28): 0 at A = 0, 1000 at the rated life exactly, 1999 at the cap for every L, it never
falls as A rises, and it lies from 0 to 1999 up to the cap (R58). -/
def Obligations.WearRunsFromZeroToItsCap : Prop :=
  ∀ life : Nat, 1 ≤ life →
    wearOf 0 life = 0 ∧ wearOf (life * 2 ^ 28) life = 1000 ∧ wearOf (2 ^ 29 * life - 1) life = 1999 ∧
      (∀ a b, a ≤ b → wearOf a life ≤ wearOf b life) ∧ (∀ a, a ≤ capOf life → wearOf a life ≤ 1999) ∧
      ∀ a, wearOf a life = 1000 * a / (life * 2 ^ 28)

/-- Smoothing under steady counts, whose sample is q: a slip above q falls to q, one below q − 3 rises to q − 3, and one
from q − 3 to q stays; below an expected count of 32 every slip holds (R43, R44). -/
def Obligations.SteadySlipSettles : Prop :=
  ∀ encoder ratio tach start : Nat, start ≤ 1000 →
    let q := slipSample (expectedCount encoder ratio) tach
    let smoothed (n : Nat) : Nat := Nat.repeat (fun slip => nextSlip slip encoder ratio tach) n start
    (encoder * ratio / 256 < 32 → ∀ m, smoothed m = start) ∧
      (32 ≤ encoder * ratio / 256 →
        (q ≤ start → ∃ n, ∀ m, n ≤ m → smoothed m = q) ∧
          (start + 3 ≤ q → ∃ n, ∀ m, n ≤ m → smoothed m + 3 = q) ∧
          (start ≤ q → q ≤ start + 3 → ∀ m, smoothed m = start) ∧ q ≤ 1000 ∧ ∀ m, smoothed m ≤ 1000)

/-- Urgency splits at 128: it is 128 or more exactly when wear is 1000 or more or H is below the horizon, it never
exceeds 255, it is 255 at rated life and at H of 0, and the band follows from it (R71, R87). -/
def Obligations.UrgencySplitsAtTheHorizon : Prop :=
  ∀ hz tWatch wear hours : Nat, 1 ≤ hz →
    let u := urgencyOf hz tWatch wear hours
    (128 ≤ u ↔ 1000 ≤ wear ∨ hours < hz) ∧ u ≤ 255 ∧ (1000 ≤ wear → u = 255) ∧ (hours = 0 → u = 255) ∧
      (wear < 1000 → hours < hz → u = 128 + 127 * (hz - hours) / hz) ∧
      (wear < 1000 → hz ≤ hours → u = if tWatch ≤ wear then 127 * wear / 1000 else 0) ∧
      (bandOf tWatch wear u = .overlife ↔ 1000 ≤ wear) ∧
      (bandOf tWatch wear u = .due ↔ wear < 1000 ∧ hours < hz) ∧
      (bandOf tWatch wear u = .watch ↔ wear < 1000 ∧ hz ≤ hours ∧ tWatch ≤ wear)

/-- REPLACE of a present slot: account, slip and hour delta 0, rate kept, service count raised, LOST cleared, W 0, H by
the kept rate, U and band as they follow, one ALERT whether or not the band moved, the pending values afresh, and every
other record as it was; of a slot that is not present it changes nothing (R54, R74, R75, R92). -/
def Obligations.ReplaceStartsTheAccountAgain : Prop :=
  ∀ (n : Nat) (s : State), s.node = .operating → ConfigLaw s → WidthLaw s →
    ((s.cfg.slot n).present = true →
      let life := (s.cfg.slot n).life
      let old := s.comp n
      ∃ t, exec (.replace n) s = .next t ∧
        t.comp n =
          { old with
            dyn :=
              { old.dyn with
                account := 0, slip := 0, hourDelta := 0, lost := false
                serviceCount := min 255 (old.dyn.serviceCount + 1) }
            wear := 0
            hours :=
              if old.dyn.rateValid = false ∨ old.dyn.rate = 0 then 65535
              else min 65535 (life * 2 ^ 28 / old.dyn.rate)
            urgency := urgencyOf s.cfg.hz s.cfg.tWatch 0 (t.comp n).hours
            band := if (t.comp n).hours < s.cfg.hz then .due else .normal
            marked := true } ∧
        (∀ i, i ≠ n → t.comp i = s.comp i) ∧ t.comps.length = s.comps.length ∧
        ForecastOf s.cfg.slots t.comps t.forecast.pending ∧
        t =
          { s.offer
              { priority := 255 - (t.comp n).urgency
                body := .alert n (t.comp n).band 0 (t.comp n).hours } with
            comps := t.comps
            forecast := { s.forecast with pending := t.forecast.pending }
            handed := s.handed.erase (.replace n)
            out := t.out }) ∧
    ((s.cfg.slot n).present = false →
      exec (.replace n) s = .next { s with handed := s.handed.erase (.replace n) })

/-- Within OPERATING no step lowers an account but a REPLACE of that slot, or the CONFIRM of its order whose REPLACE takes
effect at once (notes/assumptions/36.md), and either takes it to 0; no step takes an account of a present slot past its
cap (R56, R57). -/
def Obligations.AccountsRiseUntilReplaced : Prop :=
  ∀ s t : State, s.node = .operating → t.node = .operating → step s = .next t →
    (∀ i,
      (t.comp i).dyn.account < (s.comp i).dyn.account →
        (∃ rest,
            s.pending = .replace i :: rest ∨
              (s.pending = .confirm :: rest ∧ (s.orders.at s.orders.head).slot = i)) ∧
          (t.comp i).dyn.account = 0) ∧
    (Capped s → Capped t)

/-! ### Claims and windows -/

/-- MAINT_RISE in CLOSED or PENDING opens a window: the hold stops, the window count rises and wraps, the pending
values are copied, a WITHDRAW is queued if that ends the own claim, and the node goes to STANDBY without a claim, to
CONTENDING with its TAKEN queued while the set holds fewer than K, and else to DEFERRED (R136, R151, R154, R155, R118).
In any other state MAINT is high already and cannot rise; that the command then sets the level alone is the model's choice
(notes/assumptions/2.md). -/
def Obligations.MaintRiseOpensAWindow : Prop :=
  ∀ s : State, s.node = .operating →
    let v := s.forecast.pending
    let count := (s.planner.windowCount + 1) % 65536
    let opened (window : WindowState) (taken : Option TakenValues) : State :=
      { s with
        planner :=
          { s.planner with
            window := window
            windowCount := count
            pendingHold := none
            takenValues := taken
            takenOwed := false
            standing := standingOf s.cfg.k v.urgency s.straps.addr s.planner.view }
        forecast := { s.forecast with announced := v }
        account := { s.account with nodeMarked := true }
        lines := (s.edge .maint true).lines
        pins := (s.edge .maint true).pins }
    let values : TakenValues := { urgency := v.urgency, dueCount := v.dueCount, windowCount := count }
    (s.planner.window = .closed ∨ s.planner.window = .pending →
      (v.urgency < 128 → s.forecast.announced.urgency < 128 →
        ∃ t, exec .maintRise s = .next t ∧ t = { opened .standby none with out := t.out }) ∧
      (v.urgency < 128 → 128 ≤ s.forecast.announced.urgency →
        ∃ t, exec .maintRise s = .next t ∧
          t =
            { (opened .standby none).offer { priority := 255, body := .withdraw } with
              out := t.out }) ∧
      (128 ≤ v.urgency → s.planner.takenSet.length < s.cfg.k →
        ∃ t, exec .maintRise s = .next t ∧
          t =
            { (opened .contending (some values)).offer { priority := 255 - v.urgency, body := .taken values } with
              out := t.out }) ∧
      (128 ≤ v.urgency → s.cfg.k ≤ s.planner.takenSet.length →
        ∃ t, exec .maintRise s = .next t ∧ t = { opened .deferred none with out := t.out })) ∧
    (s.planner.window ≠ .closed → s.planner.window ≠ .pending →
      ∃ t, exec .maintRise s = .next t ∧
        t = { s with lines := (s.edge .maint true).lines, pins := (s.edge .maint true).pins, out := t.out })

/-- MAINT_FALL closes the window from any state: a TAKEN that waits is removed without count, one in transmission is
marked, the set is cleared, the hold stopped, and the Order List keeps everything. PENDING_HOLD_EXPIRY returns PENDING
to CLOSED with the set cleared once 5 s have run, and not before (R125, R153, R160). -/
def Obligations.WindowsCloseWithTheSetCleared : Prop :=
  ∀ s : State, s.node = .operating →
    (∃ t, exec .maintFall s = .next t ∧
      t =
        { s with
          planner :=
            { s.planner with
              window := .closed, takenSet := [], pendingHold := none, takenValues := none, takenOwed := false }
          queue :=
            { s.queue with
              waiting := s.queue.waiting.filter fun n => !n.body.isTaken
              removalMark := s.queue.removalMark || s.sends NoticeBody.isTaken }
          lines := (s.edge .maint false).lines
          pins := (s.edge .maint false).pins
          out := t.out }) ∧
    (s.planner.window = .pending → (∃ ms, s.planner.pendingHold = some ms ∧ 5000 ≤ ms) →
      ∃ t, exec .pendingHoldExpiry s = .next t ∧
        t =
          { s with
            planner := { s.planner with window := .closed, takenSet := [], pendingHold := none }
            out := t.out }) ∧
    (s.planner.window ≠ .pending ∨ (∀ ms, s.planner.pendingHold = some ms → ms < 5000) →
      exec .pendingHoldExpiry s = .next s)

/-- TAKEN_HEARD by window state: in CLOSED it begins the set and the PENDING hold; in any other state the source joins
the set, not twice and not as a ninth; in CONTENDING a set that reaches K defers the node and takes its TAKEN back
(R150, R152, R153, R158). -/
def Obligations.TakenHeardFillsTheSet : Prop :=
  ∀ (source : Addr) (s : State), s.node = .operating → s.acceptsSource source = true →
    let joined :=
      if source ∈ s.planner.takenSet ∨ 8 ≤ s.planner.takenSet.length then s.planner.takenSet
      else s.planner.takenSet ++ [source]
    (s.planner.window = .closed →
      ∃ t, exec (.takenHeard source) s = .next t ∧
        t =
          { s with
            planner := { s.planner with takenSet := [source], window := .pending, pendingHold := some 0 }
            out := t.out }) ∧
    (s.planner.window ≠ .closed → (s.planner.window = .contending → joined.length < s.cfg.k) →
      ∃ t, exec (.takenHeard source) s = .next t ∧
        t = { s with planner := { s.planner with takenSet := joined }, out := t.out }) ∧
    (s.planner.window = .contending → s.cfg.k ≤ joined.length →
      ∃ t, exec (.takenHeard source) s = .next t ∧
        t =
          { s with
            planner := { s.planner with takenSet := joined, window := .deferred, takenOwed := false }
            queue :=
              { s.queue with
                waiting := s.queue.waiting.filter fun n => !n.body.isTaken
                removalMark := s.queue.removalMark || s.sends NoticeBody.isTaken }
            out := t.out })

/-- CLAIM_RECEIVED: an urgency of 128 or more updates or inserts the source's entry at its rank with age 0; into a full
view without it, only ahead of the lowest-ranked, which goes; an urgency below 128 removes the entry; a claim that
contradicts itself is ignored. The standing is decided again (R138 to R142, R145, R146). That a due count above 32
contradicts at an urgency below 128 also is the model's reading (notes/assumptions/17.md, DEDUCED). -/
def Obligations.ClaimsKeepTheViewRanked : Prop :=
  ∀ (source : Addr) (urgency due : Byte) (hours : BitVec 16) (s : State),
    s.node = .operating → s.acceptsSource source = true → PlannerLaw s →
    let claim := Instr.claimReceived source urgency due hours
    let entry : ClaimEntry := { address := source, urgency := urgency.toNat, age := 0 }
    let others := s.planner.view.filter fun e => decide (e.address ≠ source)
    let ignored := (128 ≤ urgency.toNat ∧ due.toNat = 0) ∨ 32 < due.toNat
    let after (t : State) : State :=
      { s with
        planner :=
          { s.planner with
            view := t.planner.view
            standing := standingOf s.cfg.k s.forecast.announced.urgency s.straps.addr t.planner.view }
        out := t.out }
    (ignored → exec claim s = .next s) ∧
    (¬ignored →
      ∃ t, exec claim s = .next t ∧ t = after t ∧
        (urgency.toNat < 128 → t.planner.view = others) ∧
        (128 ≤ urgency.toNat → s.planner.view.length < 24 ∨ others ≠ s.planner.view →
          t.planner.view.Perm (entry :: others)) ∧
        (∀ last, 128 ≤ urgency.toNat → s.planner.view.length = 24 → others = s.planner.view →
          s.planner.view.getLast? = some last →
          (entry.before last = true → t.planner.view.Perm (entry :: s.planner.view.dropLast)) ∧
            (entry.before last = false → t.planner.view = s.planner.view)) ∧
        t.planner.view.Pairwise fun a b => a.before b = true)

/-- WITHDRAW_RECEIVED removes the source's entry, and CLAIM_ENTRY_AGE_OUT the entry of an address whose age has
reached 100,000 ms; the others keep their order, and the standing is decided again (R142, R143, R146). -/
def Obligations.EntriesLeaveTheView : Prop :=
  ∀ (source : Addr) (s : State), s.node = .operating →
    let after (view : List ClaimEntry) (out : Outputs) : State :=
      { s with
        planner :=
          { s.planner with
            view := view
            standing := standingOf s.cfg.k s.forecast.announced.urgency s.straps.addr view }
        out := out }
    (s.acceptsSource source = true →
      ∃ t, exec (.withdrawReceived source) s = .next t ∧
        t = after (s.planner.view.filter fun e => decide (e.address ≠ source)) t.out) ∧
    ∃ t, exec (.claimEntryAgeOut source) s = .next t ∧
      t =
        after (s.planner.view.filter fun e => decide (¬(e.address = source ∧ 100000 ≤ e.age))) t.out

/-- The standing is NONE without an own claim, GRANTED with one and fewer than K outranking entries, and WAITING with K
or more; in a ranked view the entries that outrank the node are the first ones, so the K-th entry decides (R134,
R145). -/
def Obligations.TheKthEntryDecidesTheStanding : Prop :=
  ∀ (k urgency : Nat) (addr : Addr) (view : List ClaimEntry), 1 ≤ k →
    view.Pairwise (fun a b => a.before b = true) →
    (standingOf k urgency addr view = .none ↔ urgency < 128) ∧
      (standingOf k urgency addr view = .granted ↔
        128 ≤ urgency ∧
          (view.countP fun e => decide (urgency < e.urgency ∨ (urgency = e.urgency ∧ e.address < addr))) < k) ∧
      (128 ≤ urgency →
        (standingOf k urgency addr view = .waiting ↔
          ∃ e, view[k - 1]? = some e ∧ (urgency < e.urgency ∨ (urgency = e.urgency ∧ e.address < addr))))

/-! ### Work orders -/

/-- CONFIRM and DECLINE in SERVICING with an open order close the head order with its outcome and the current window
count, clear its slot's flag, move the head on, lower the open count and queue an ORDER; CONFIRM requests the REPLACE that
its ORDER counts. In any other window state, or with no open order, the press is ignored (R167, R168, R171, R119). R119
lets the REPLACE, with its ALERT, come before the ORDER or after it; which of the two is a free value of the model, one
answer for each CONFIRM (notes/assumptions/36.md): the REPLACE has its effect first, or waits as work handed over. -/
def Obligations.PressesCloseTheHeadOrder : Prop :=
  ∀ s : State, s.node = .operating →
    let head := s.orders.head
    let slot := (s.orders.at head).slot
    let count := (s.comp slot).dyn.serviceCount
    let order (outcome : OrderStatus) (serviceCount : Nat) : Notice :=
      { priority := 255, body := .order head slot outcome s.planner.windowCount serviceCount }
    let closed (outcome : OrderStatus) : State :=
      { s with
        orders :=
          { s.orders with
            ring :=
              s.orders.ring.set head
                { s.orders.at head with status := outcome, windowAtClose := s.planner.windowCount }
            marks := s.orders.marks.set head true
            head := (head + 1) % 32
            openCount := s.orders.openCount - 1 }
        comps := s.comps.set slot { s.comp slot with openOrder := false }
        account := { s.account with nodeMarked := true } }
    (s.planner.window = .servicing → 0 < s.orders.openCount →
      (Config.replaceFirst s.choices = false →
        ∃ t, exec .confirm s = .next t ∧
          t =
            { (closed .done).offer (order .done (min 255 (count + 1))) with
              handed := s.handed ++ [.replace slot]
              choices := s.choices + 1
              out := t.out }) ∧
      (Config.replaceFirst s.choices = true →
        ∃ u, exec (.replace slot) { closed .done with handed := .replace slot :: s.handed } = .next u ∧
          ∃ t, exec .confirm s = .next t ∧
            t =
              { u.offer (order .done (min 255 (count + 1))) with choices := s.choices + 1, out := t.out }) ∧
      ∃ t, exec .decline s = .next t ∧ t = { (closed .declined).offer (order .declined count) with out := t.out }) ∧
    (s.planner.window ≠ .servicing ∨ s.orders.openCount = 0 →
      exec .confirm s = .next s ∧ exec .decline s = .next s)

/-- The own unmarked TAKEN completing in CONTENDING takes a place: the own address joins the set, the state is
SERVICING, and one OPEN order is appended for each present component with U of 128 or more and a clear flag, by U
descending and slot ascending, from the tail on; each sets its flag, and the tail and the open count move by as many
(R109, R156, R163 to R165). -/
def Obligations.CompletedTakenAppendsTheDueOrders : Prop :=
  ∀ (witnessed : Bool) (values : TakenValues) (priority : Nat) (s : State),
    s.node = .operating → ConfigLaw s → WidthLaw s → PlannerLaw s → QueueLaw s →
    s.planner.window = .contending → s.queue.removalMark = false →
    s.inFlight = some { priority := priority, body := .taken values } →
    ∃ (t : State) (due : List Nat), exec (.frameComplete witnessed) s = .next t ∧
      due.Perm
        ((List.range 32).filter fun i =>
          (s.cfg.slot i).present && decide (128 ≤ (s.comp i).urgency) && !(s.comp i).openOrder) ∧
      due.Pairwise
        (fun i j =>
          (s.comp j).urgency < (s.comp i).urgency ∨ ((s.comp i).urgency = (s.comp j).urgency ∧ i < j)) ∧
      (∀ j slot, due[j]? = some slot →
        t.orders.at ((s.orders.tail + j) % 32) =
            { slot := slot, action := .replace, wearAtIssue := (s.comp slot).wear
              urgencyAtIssue := (s.comp slot).urgency, windowAtIssue := s.planner.windowCount
              status := .opened, windowAtClose := 0 } ∧
          t.orders.marks.getD ((s.orders.tail + j) % 32) false = true) ∧
      (∀ p < 32, (∀ j < due.length, p ≠ (s.orders.tail + j) % 32) →
        t.orders.at p = s.orders.at p ∧ t.orders.marks.getD p false = s.orders.marks.getD p false) ∧
      (t.orders.ring.length = 32 ∧ t.orders.marks.length = 32) ∧
      (∀ i, t.comp i = { s.comp i with openOrder := (s.comp i).openOrder || decide (i ∈ due) }) ∧
      t =
        { s with
          bus := { s.bus with activity := .waiting, faultCount := s.bus.faultCount - 1 }
          planner :=
            { s.planner with
              window := .servicing
              takenOwed := false
              takenSet :=
                if s.straps.addr ∈ s.planner.takenSet then s.planner.takenSet
                else s.planner.takenSet ++ [s.straps.addr] }
          orders :=
            { ring := t.orders.ring
              marks := t.orders.marks
              head := s.orders.head
              tail := (s.orders.tail + due.length) % 32
              openCount := s.orders.openCount + due.length }
          comps := t.comps
          account := { s.account with nodeMarked := s.account.nodeMarked || decide (due ≠ []) }
          out := t.out }

/-! ### The transmit queue -/


/-- A notice handed to a queue with room joins after every notice of lower or equal header and before every notice of
higher header; nothing else of the state changes. At a full queue a notice of lower header than the last entry not in
transmission takes its place by header, and one of equal or higher header is dropped; either way the dropped count rises
and the queue still holds eight. The block of a lost TAKEN or REPORT is told (R121, R124, R126, R128). -/
def Obligations.NoticesTakeTheirPlaceByHeader : Prop :=
  ∀ (n : Notice) (s : State), s.bus.mode ≠ .silenced → QueueLaw s →
    n.body.isClaimKind = false ∨ s.holds NoticeBody.isClaimKind = 0 →
    (s.queued < 8 →
      ∃ before after, s.queue.waiting = before ++ after ∧
        s.offer n = { s with queue := { s.queue with waiting := before ++ n :: after } } ∧
        (∀ m ∈ before, m.header s.straps.addr ≤ n.header s.straps.addr) ∧
        ∀ m ∈ after, n.header s.straps.addr < m.header s.straps.addr) ∧
    ∀ last kept, s.queued = 8 → s.queue.waiting = kept ++ [last] →
      let lost := if n.header s.straps.addr < last.header s.straps.addr then last else n
      (s.offer n).queued = 8 ∧
        (n.header s.straps.addr < last.header s.straps.addr →
          ∃ before after, kept = before ++ after ∧ (s.offer n).queue.waiting = before ++ n :: after ∧
            (∀ m ∈ before, m.header s.straps.addr ≤ n.header s.straps.addr) ∧
            ∀ m ∈ after, n.header s.straps.addr < m.header s.straps.addr) ∧
        (last.header s.straps.addr ≤ n.header s.straps.addr → (s.offer n).queue.waiting = s.queue.waiting) ∧
        s.offer n =
          { s with
            queue :=
              { s.queue with
                waiting := (s.offer n).queue.waiting, dropped := min 65535 (s.queue.dropped + 1) }
            planner :=
              { s.planner with
                takenOwed :=
                  s.planner.takenOwed ||
                    (lost.body.isTaken && decide (s.planner.window = .contending)) }
            query := if lost.body.isReport = true then none else s.query }

/-- A CLAIM or WITHDRAW replaces the one that waits, without count, and joins the others by header; behind one in transmission it is the held
successor; in SILENCED every notice is discarded without count, a TAKEN deferring a contending node (R123, R127,
R157). -/
def Obligations.ClaimsShareOnePlace : Prop :=
  ∀ (n : Notice) (s : State), QueueLaw s →
    (s.bus.mode ≠ .silenced → n.body.isClaimKind = true → (∃ m ∈ s.queue.waiting, m.body.isClaimKind = true) →
      JoinedByHeader s.straps.addr n (s.queue.waiting.filter fun m => !m.body.isClaimKind)
          (s.offer n).queue.waiting ∧
        s.offer n = { s with queue := { s.queue with waiting := (s.offer n).queue.waiting } } ∧
        QueueLaw (s.offer n)) ∧
    (s.bus.mode ≠ .silenced → n.body.isClaimKind = true → s.sends NoticeBody.isClaimKind = true →
      s.offer n = { s with queue := { s.queue with held := some n } }) ∧
    (s.bus.mode = .silenced →
      s.offer n =
        if n.body.isTaken = true ∧ s.planner.window = .contending then
          { s with planner := { s.planner with window := .deferred } }
        else s)

/-! ### The line bus -/

/-- BUS_IDLE makes the view IDLE and ends a reception or the wait after a broken frame; BUS_BUSY makes an IDLE view
BUSY and a waiting controller receive; MUTE_END after 1 s returns the fault count to 0 and MUTE, not SILENCED, to
ACTIVE. Each in every running state, whatever the other blocks hold (R99, R105, R106, R112). That BUS_IDLE ends a reception
is the model's reading (notes/assumptions/14.md, DEDUCED); that BUS_BUSY begins one is its choice where a FRAME_JOIN could
stand for the same pulse (notes/assumptions/35.md). -/
def Obligations.BusViewAndMuteMove : Prop :=
  ∀ s : State, s.node ≠ .starting →
    (s.inFlight = none →
      ∃ t, exec .busIdle s = .next t ∧
        t =
          { s with
            bus := { s.bus with view := .idle, activity := .waiting, seenIdle := true }
            out := t.out }) ∧
    (s.bus.view = .idle → s.bus.activity = .waiting →
      ∃ t, exec .busBusy s = .next t ∧
        t = { s with bus := { s.bus with view := .busy, activity := .receiving }, out := t.out }) ∧
    (s.bus.view = .busy → exec .busBusy s = .next s) ∧
    ((∃ ms, s.bus.muteMs = some ms ∧ 1000 ≤ ms) →
      ∃ t, exec .muteEnd s = .next t ∧
        t =
          { s with
            bus :=
              { s.bus with
                mode := if s.bus.mode = .silenced then .silenced else .active
                muteMs := none
                faultCount := 0 }
            out := t.out }) ∧
    ((∀ ms, s.bus.muteMs = some ms → ms < 1000) → exec .muteEnd s = .next s)

/-- FRAME_START with the view IDLE, and FRAME_JOIN after nine bit times of silence once the view has been IDLE, put the
head notice in transmission where the mode is ACTIVE and the controller waits; in MUTE and SILENCED neither does, and a
frame that another station begins is received (R99, R100, R106, R112, R114, R122). -/
def Obligations.TheHeadNoticeGoesIntoTransmission : Prop :=
  ∀ (silence : Nat) (s : State), s.node ≠ .starting → s.bus.activity = .waiting →
    (∀ n rest, s.bus.mode = .active → s.queue.waiting = n :: rest →
      let sending (out : Outputs) : State :=
        { s with
          queue := { s.queue with waiting := rest }
          bus := { s.bus with view := .busy, activity := .sending n }
          out := out }
      (s.bus.view = .idle → ∃ t, exec .frameStart s = .next t ∧ t = sending t.out) ∧
        (s.bus.seenIdle = true → 9 ≤ silence →
          ∃ t, exec (.frameJoin silence) s = .next t ∧ t = sending t.out)) ∧
    (s.bus.mode ≠ .active ∨ s.queue.waiting = [] ∨ s.bus.view = .busy → exec .frameStart s = .next s) ∧
    (s.bus.mode ≠ .active ∨ s.queue.waiting = [] ∨ s.bus.seenIdle = false ∨ silence < 9 →
      ∃ t, exec (.frameJoin silence) s = .next t ∧
        t = { s with bus := { s.bus with view := .busy, activity := .receiving }, out := t.out })

/-- A loss in arbitration happens in a header cell in which the node sends 1, an abort in any cell it sends dominant
or in any cell after the header. Both end the transmission and the node receives; the notice returns to its place, the
others keeping the order they had, but for a marked TAKEN, which goes, and a CLAIM or WITHDRAW with a held successor,
which joins by header in its stead. A loss leaves the fault count; an abort raises it, and at 32 brings MUTE for 1 s
(R103, R104, R111, R112, R121 to R123, R125). That the notice goes before those of equal header is the model's reading
(notes/assumptions/23.md, DEDUCED). -/
def Obligations.LossesAndAbortsReturnTheNotice : Prop :=
  ∀ (cell : Nat) (n : Notice) (s : State), s.inFlight = some n → QueueLaw s → s.bus.faultCount < 32 →
    let back (q : NoticeQueue) : Prop :=
      (n.body.isTaken = true → s.queue.removalMark = true →
        q = { s.queue with removalMark := false }) ∧
      (∀ successor, s.queue.held = some successor →
        JoinedByHeader s.straps.addr successor s.queue.waiting q.waiting ∧
          q = { s.queue with waiting := q.waiting, held := none }) ∧
      (s.queue.removalMark = false → s.queue.held = none →
        ReturnedByHeader s.straps.addr n s.queue.waiting q.waiting ∧ q = { s.queue with waiting := q.waiting }) ∧
      q.waiting.Pairwise fun a b => a.header s.straps.addr ≤ b.header s.straps.addr
    (1 ≤ cell → cell ≤ 17 → (n.cells s.straps.addr)[cell]? = some true →
      ∃ t, exec (.arbitrationLost cell) s = .next t ∧ back t.queue ∧
        t = { s with bus := { s.bus with activity := .receiving }, queue := t.queue, out := t.out }) ∧
    ((n.cells s.straps.addr)[cell]? = some false ∨
        (17 < cell ∧ cell < (n.cells s.straps.addr).length) →
      ∃ t, exec (.frameAbort cell) s = .next t ∧ back t.queue ∧
        t =
          { s with
            bus :=
              { s.bus with
                activity := .receiving
                faultCount := s.bus.faultCount + 1
                mode := if s.bus.faultCount = 31 then .mute else s.bus.mode
                muteMs := if s.bus.faultCount = 31 then some 0 else s.bus.muteMs }
            queue := t.queue
            out := t.out })

/-- FRAME_COMPLETE of any notice but a TAKEN that takes a place removes it, lets a held successor join by header,
lowers the fault count to no less than 0, ends the pending query where the notice is its REPORT, and does nothing
else, witnessed or not (R109, R111, R123, R125, R130, R156). -/
def Obligations.CompletedNoticesLeaveTheQueue : Prop :=
  ∀ (witnessed : Bool) (n : Notice) (s : State), s.inFlight = some n → QueueLaw s →
    n.body.isTaken = false ∨ s.queue.removalMark = true ∨ s.planner.window ≠ .contending →
    ∃ t, exec (.frameComplete witnessed) s = .next t ∧
      (s.queue.held = none → t.queue.waiting = s.queue.waiting) ∧
      (∀ successor, s.queue.held = some successor →
        JoinedByHeader s.straps.addr successor s.queue.waiting t.queue.waiting ∧
          t.queue.waiting.Pairwise fun a b => a.header s.straps.addr ≤ b.header s.straps.addr) ∧
      t =
        { s with
          bus := { s.bus with activity := .waiting, faultCount := s.bus.faultCount - 1 }
          queue := { s.queue with waiting := t.queue.waiting, held := none, removalMark := false }
          query := if n.body.isReport = true then none else s.query
          out := t.out }

/-- The cells of a frame, read back, give its fields and a check word that matches; cut short anywhere they are a broken
frame; each field stands in its cells (R98, R101, R102, R105, section 7.4). The frame of a notice has the class, the
destination and the payload that sections 7.1 and 7.4 give its kind, and the node's own address as source, and its header
is class × 16,384 + priority × 64 + source (R117). That an ALERT sends a W above 65535 by its low 16 bits is the model's
choice (notes/assumptions/43.md). -/
def Obligations.FramesReadBackAsSent : Prop :=
  (∀ (cls priority : Nat) (source dest : Addr) (payload : List Byte), cls < 8 → priority < 256 →
    payload.length ≤ 12 →
    let cells := frameCells cls priority source dest payload
    parseFrame cells =
        some
          { cls := cls, priority := priority, source := source, dest := dest, payload := payload
            checkOk := true } ∧
      cells.length = 44 + 8 * payload.length ∧
      (∀ n < 44 + 8 * payload.length, parseFrame (cells.take n) = none) ∧
      cells.head? = some false ∧ ofBits ((cells.drop 1).take 3) = cls ∧ ofBits ((cells.drop 4).take 8) = priority ∧
      ofBits ((cells.drop 12).take 6) = source.toNat ∧ ofBits ((cells.drop 18).take 6) = dest.toNat ∧
      ofBits ((cells.drop 24).take 4) = payload.length ∧
      (∀ i < payload.length, ofBits ((cells.drop (28 + 8 * i)).take 8) = (payload.getD i 0).toNat) ∧
      ofBits (cells.drop (28 + 8 * payload.length)) =
        (checkWord ((cells.drop 1).take (27 + 8 * payload.length))).toNat) ∧
  ∀ (addr : Addr) (priority : Nat),
    let sent (body : NoticeBody) (cls : Nat) (dest : Addr) (payload : List Byte) : Prop :=
      Notice.cells addr { priority := priority, body := body } = frameCells cls priority addr dest payload ∧
        Notice.header addr { priority := priority, body := body } = cls * 16384 + priority * 64 + addr.toNat
    let high (value : Nat) : Byte := BitVec.ofNat 8 (value / 256)
    let byte (value : Nat) : Byte := BitVec.ofNat 8 value
    (∀ p ∈ ([(.transit, 1), (.blocked, 2), (.crowded, 3)] : List (JamCause × Byte)), ∀ (cleared : Nat) (tag : Tag),
      sent (.jam p.1 cleared tag) 0 0 [p.2, byte cleared, tag.extractLsb' 8 8, tag.extractLsb' 0 8]) ∧
    (∀ (tag : Tag) (thickness mass : PieceClass) (exit : ExitPath) (phantom : Bool),
      sent (.passage tag thickness mass exit phantom) 1 0
        [tag.extractLsb' 8 8, tag.extractLsb' 0 8,
          thickness ++ mass ++ BitVec.ofBool (decide (exit = .divert)) ++ BitVec.ofBool phantom]) ∧
    (∀ v : TakenValues,
      sent (.taken v) 2 0 [byte v.urgency, byte v.dueCount, high v.windowCount, byte v.windowCount]) ∧
    (∀ v : NodeForecast,
      sent (.claim v) 3 0 [byte v.urgency, byte v.dueCount, high v.earliestHours, byte v.earliestHours]) ∧
    sent .withdraw 3 0 [] ∧
    (∀ p ∈ ([(.normal, 0), (.watch, 1), (.due, 2), (.overlife, 3)] : List (Band × Byte)), ∀ slot wear hours : Nat,
      sent (.alert slot p.1 wear hours) 4 0
        [0x01, byte slot, p.2, high wear, byte wear, high hours, byte hours]) ∧
    (∀ p ∈ ([(.done, 2), (.declined, 3)] : List (OrderStatus × Byte)), ∀ index slot windowCount serviceCount : Nat,
      sent (.order index slot p.1 windowCount serviceCount) 4 0
        [0x02, byte index, byte slot, p.2, high windowCount, byte windowCount, byte serviceCount]) ∧
    ∀ (querier : Addr) (bytes : List Byte), sent (.report querier bytes) 6 querier bytes

/-- A frame whose length field reads 13 to 15, that ends before its check word does, or whose lead cell is recessive, is
broken: it is handed to no block, is not witnessed, and the controller waits for IDLE (R105). A whole frame whose check
word fails is dropped without witness (R106). That a recessive lead cell makes a frame broken is the model's reading
(notes/assumptions/14.md, DEDUCED). -/
def Obligations.BrokenAndFailingFramesAreDropped : Prop :=
  ∀ (cells : List Bool) (s : State), s.node ≠ .starting →
    s.bus.activity = .waiting ∨ s.bus.activity = .receiving →
    let read (activity : Activity) (out : Outputs) : State :=
      { s with bus := { s.bus with view := .busy, activity := activity, witness := false }, out := out }
    (cells.length < 44 ∨ cells.head? = some true ∨ 13 ≤ ofBits ((cells.drop 24).take 4) ∨
        cells.length < 44 + 8 * ofBits ((cells.drop 24).take 4) →
      ∃ t, exec (.frameReceived cells) s = .next t ∧ t = read .awaitingIdle t.out) ∧
    (∀ f, parseFrame cells = some f → f.checkOk = false →
      ∃ t, exec (.frameReceived cells) s = .next t ∧ t = read .waiting t.out)

/-- A whole frame with a matching check word: from the node's own address it is a clash, which silences the controller
and empties the queue; to another station, or from an address of 0 or 63, it is dropped; else it is accepted, witnessed
unless SILENCED, and a JAM, PASSAGE, TAKEN, CLAIM or WITHDRAW of its length is taken by its block there and then, as the
command of its kind is. Classes 4 and 6, and a QUERY or CONFIG to all stations, have no other effect (R106 to R108, R113,
R114, R120, R126, R127; that the block takes the notice in the step that hands it on is the model's choice,
notes/assumptions/16.md). -/
def Obligations.WholeFramesAreTakenByTheirClass : Prop :=
  ∀ (cls priority : Nat) (source dest : Addr) (payload : List Byte) (s : State),
    cls < 8 → priority < 256 → payload.length ≤ 12 → s.node ≠ .starting →
    s.bus.activity = .waiting ∨ s.bus.activity = .receiving → QueueLaw s →
    let command := Instr.frameReceived (frameCells cls priority source dest payload)
    let read : State := { s with bus := { s.bus with view := .busy, activity := .waiting, witness := false } }
    let witnessed : State := { read with bus := { read.bus with witness := decide (s.bus.mode ≠ .silenced) } }
    let unusable := source.toNat = 0 ∨ source.toNat = 63
    let taken (heard : Instr) : Prop :=
      ∃ u, exec heard witnessed = .next u ∧ ∃ t, exec command s = .next t ∧ t = { u with out := t.out }
    (source = s.straps.addr → s.bus.mode = .silenced →
      ∃ t, exec command s = .next t ∧ t = { read with out := t.out }) ∧
    (source = s.straps.addr → s.bus.mode ≠ .silenced →
      ∃ t, exec command s = .next t ∧
        t =
          { read with
            bus := { read.bus with mode := .silenced }
            queue := { s.queue with waiting := [], held := none, removalMark := false }
            planner :=
              if s.planner.window = .contending ∧ (∃ m ∈ s.queue.waiting, m.body.isTaken = true) then
                { s.planner with window := .deferred, takenOwed := false }
              else s.planner
            query := none
            out := t.out }) ∧
    (source ≠ s.straps.addr → unusable ∨ (dest ≠ 0 ∧ dest ≠ s.straps.addr) →
      ∃ t, exec command s = .next t ∧ t = { read with out := t.out }) ∧
    (source ≠ s.straps.addr → ¬unusable → dest = 0 ∨ dest = s.straps.addr →
      (∀ b0 b1 b2 b3, cls = 0 → payload = [b0, b1, b2, b3] → taken (.jamReceived source)) ∧
      (∀ (tag : Tag) (thickness mass : PieceClass) (exit : ExitPath) (phantom : Bool), cls = 1 →
        payload =
          [tag.extractLsb' 8 8, tag.extractLsb' 0 8,
            thickness ++ mass ++ BitVec.ofBool (decide (exit = .divert)) ++ BitVec.ofBool phantom] →
        taken (.passageReceived source tag thickness mass exit phantom)) ∧
      (∀ b0 b1 b2 b3, cls = 2 → payload = [b0, b1, b2, b3] → taken (.takenHeard source)) ∧
      (∀ b0 b1 b2 b3, cls = 3 → payload = [b0, b1, b2, b3] → taken (.claimReceived source b0 b1 (b2 ++ b3))) ∧
      (cls = 3 → payload = [] → taken (.withdrawReceived source)) ∧
      ((cls = 0 ∧ payload.length ≠ 4) ∨ (cls = 1 ∧ payload.length ≠ 3) ∨ (cls = 2 ∧ payload.length ≠ 4) ∨
          (cls = 3 ∧ payload.length ≠ 4 ∧ payload.length ≠ 0) ∨ cls = 4 ∨ cls = 6 ∨
          ((cls = 5 ∨ cls = 7) ∧ dest = 0) →
        ∃ t, exec command s = .next t ∧ t = { witnessed with out := t.out }) ∧
      ((cls = 5 ∨ cls = 7) → dest ≠ 0 → s.bus.mode = .silenced →
        ∃ t, exec command s = .next t ∧ t = { read with out := t.out }))

/-! ### Queries -/

/-- A QUERY that reaches the Query Responder with none pending, of a kind the node's state answers, is taken: it is
pending, the REPORT built from the state as it stands is handed to the queue at priority 0, and the slot is driven.
With one pending, or of another kind in UNCONFIGURED, it is refused: nothing changes and the slot is left recessive.
SILENCED takes none (R108, R114, R129, R130). -/
def Obligations.QueriesAreTakenOneAtATime : Prop :=
  ∀ (querier : Addr) (arg : BitVec 5) (s : State), s.node ≠ .starting → s.acceptsSource querier = true →
    let commands : List (Instr × QueryKind) :=
      [(.queryIdentity querier arg, .identity), (.querySection querier arg, .sectionInfo),
        (.queryCounts querier arg, .counts), (.queryComponent querier arg, .component),
        (.queryOrder querier arg, .order), (.queryList querier arg, .list),
        (.queryCommission querier arg, .commission)]
    ∀ p ∈ commands,
      let answered := s.node ≠ .unconfigured ∨ p.2 = .identity ∨ p.2 = .commission
      (s.bus.mode ≠ .silenced → s.query = none → answered →
        let taken : State :=
          { s with query := some { querier := querier, kind := p.2, arg := arg } }.offer
            { priority := 0, body := .report querier (reportBytes p.2 arg s) }
        ∃ t, exec p.1 s = .next t ∧
          t = { taken with bus := { s.bus with witness := true }, out := t.out }) ∧
      (s.bus.mode ≠ .silenced → s.query ≠ none ∨ ¬answered →
        ∃ t, exec p.1 s = .next t ∧ t = { s with bus := { s.bus with witness := false }, out := t.out }) ∧
      (s.bus.mode = .silenced → exec p.1 s = .next s)

/-- A QUERY frame addressed to the node does what the command of its kind does, on the state after its reception, and a
CONFIG frame what the command of its item does; a wrong length, an unlisted kind and an unlisted item code are refused
(R107, R108, R120, R129, R178 to R180, section 7.4). -/
def Obligations.AddressedFramesReachTheirBlock : Prop :=
  ∀ (priority : Nat) (source : Addr) (payload : List Byte) (s : State),
    priority < 256 → payload.length ≤ 12 → s.node ≠ .starting → s.bus.mode ≠ .silenced →
    s.bus.activity = .waiting ∨ s.bus.activity = .receiving →
    usableAddr s.straps.addr = true → s.acceptsSource source = true →
    let frame (cls : Nat) := Instr.frameReceived (frameCells cls priority source s.straps.addr payload)
    let read : State := { s with bus := { s.bus with view := .busy, activity := .waiting, witness := false } }
    (∀ (kind : QueryKind) (arg : BitVec 5) (command : Instr), payload = [reportHead kind arg.toNat] →
      (kind, command) ∈
          ([(.identity, .queryIdentity source arg), (.sectionInfo, .querySection source arg),
            (.counts, .queryCounts source arg), (.component, .queryComponent source arg),
            (.order, .queryOrder source arg), (.list, .queryList source arg),
            (.commission, .queryCommission source arg)] : List (QueryKind × Instr)) →
      exec (frame 5) s = exec command read) ∧
    (payload.length ≠ 1 ∨ (∃ b, payload = [b] ∧ b.toNat / 32 = 0) →
      ∃ t, exec (frame 5) s = .next t ∧ t = { read with out := t.out }) ∧
    (∀ k h1 h0 w1 w0 t1 t0 : Byte, payload = [0x01, k, h1, h0, w1, w0, t1, t0] →
      exec (frame 7) s = exec (.lineA k (h1 ++ h0) (w1 ++ w0) (t1 ++ t0)) read) ∧
    (∀ g thickness mass classSource announceDivert j : Byte,
      payload = [0x02, g, thickness, mass, classSource, announceDivert, j] →
      exec (frame 7) s = exec (.lineB g thickness mass classSource announceDivert j) read) ∧
    (∀ t1 t0 b1 b0 h1 h0 : Byte, payload = [0x03, t1, t0, b1, b0, h1, h0] →
      exec (frame 7) s = exec (.lineC (t1 ++ t0) (b1 ++ b0) (h1 ++ h0)) read) ∧
    (∀ table f9 f8 f7 f6 f5 f4 f3 f2 f1 f0 : Byte,
      payload = [0x04, table, f9, f8, f7, f6, f5, f4, f3, f2, f1, f0] →
      exec (frame 7) s =
        exec (.factors table (f9 ++ f8 ++ f7 ++ f6 ++ f5 ++ f4 ++ f3 ++ f2 ++ f1 ++ f0)) read) ∧
    (∀ entry inUse address exit : Byte, payload = [0x05, entry, inUse, address, exit] →
      exec (frame 7) s = exec (.upstream entry inUse address exit) read) ∧
    (∀ line fn, payload = [0x06, line, fn] → exec (frame 7) s = exec (.input line fn) read) ∧
    (∀ slot kind path l3 l2 l1 l0 weight tach : Byte,
      payload = [0x07, slot, kind, path, l3, l2, l1, l0, weight, tach] →
      exec (frame 7) s = exec (.slot slot kind path (l3 ++ l2 ++ l1 ++ l0) weight tach) read) ∧
    (∀ slot r1 r0 d1 d0 s1 s0 : Byte, payload = [0x08, slot, r1, r0, d1, d0, s1, s0] →
      exec (frame 7) s = exec (.slotB slot (r1 ++ r0) (d1 ++ d0) (s1 ++ s0)) read) ∧
    (∀ slot, payload = [0x09, slot] → exec (frame 7) s = exec (.clear slot) read) ∧
    (∀ high low : Byte, payload = [0x0A, high, low] → exec (frame 7) s = exec (.label (high ++ low)) read) ∧
    (payload = [0x0B] → exec (frame 7) s = exec .commit read) ∧
    (payload = [] ∨
        (∃ code rest, payload = code :: rest ∧
          (code.toNat, payload.length) ∉
            ([(1, 8), (2, 7), (3, 7), (4, 12), (5, 5), (6, 3), (7, 10), (8, 8), (9, 2), (10, 3), (11, 1)] :
              List (Nat × Nat))) →
      ∃ t, exec (frame 7) s = .next t ∧ t = { read with out := t.out })

/-- The reports have the lengths and fields of their layouts: numbers most significant byte first, the empty marker
where the query names nothing (R131 to R133). That bit 1 of byte 1 of COMPONENT, which the layout does not give, is 0 is the
model's choice (notes/assumptions/45.md). A W above its range, and a W at issue above 65535, is outside the statement
(notes/assumptions/43.md). -/
def Obligations.ReportsFollowTheirLayouts : Prop :=
  ∀ (arg : BitVec 5) (s : State), WidthLaw s →
    let head (code : Nat) (argument : Nat) : Byte := BitVec.ofNat 8 (code * 32 + argument)
    let number (high low : Byte) : Nat := high.toNat * 256 + low.toNat
    (∃ high low count1 count0,
      reportBytes .identity arg s =
          [head 1 0, 0x3C, 0x01, s.straps.addr.setWidth 8, BitVec.ofNat 8 s.account.labelCommitted.toNat, high, low,
            count1, count0] ∧
        number high low = s.account.label.toNat ∧ number count1 count0 = s.account.commissionCount) ∧
    (s.node = .operating → TrackerLaw s →
      ∃ bytes, (reportBytes .counts 0 s).map BitVec.toNat = (head 3 0).toNat :: bytes ∧
        bytes =
          [s.tracker.departed / 256, s.tracker.departed % 256, s.tracker.missing / 256, s.tracker.missing % 256,
            s.tracker.phantom / 256, s.tracker.phantom % 256]) ∧
    (s.node = .operating → TrackerLaw s →
      (reportBytes .counts 1 s).map BitVec.toNat =
        [97, s.tracker.untagged / 256, s.tracker.untagged % 256, s.tracker.jams / 256, s.tracker.jams % 256,
          s.queue.dropped / 256, s.queue.dropped % 256]) ∧
    (2 ≤ arg.toNat → reportBytes .counts arg s = [head 3 arg.toNat]) ∧
    (s.node = .operating → (s.cfg.slot arg.toNat).present = true → (s.comp arg.toNat).wear ≤ 1999 →
      let c := s.comp arg.toNat
      ∃ w1 w0 h1 h0 s1 s0,
        reportBytes .component arg s =
            [head 4 arg.toNat,
              BitVec.ofNat 8
                ((s.cfg.slot arg.toNat).kind.code * 64 + (s.cfg.slot arg.toNat).path.code * 16 + c.band.code * 4 +
                  c.dyn.lost.toNat),
              w1, w0, h1, h0, BitVec.ofNat 8 c.urgency, s1, s0, BitVec.ofNat 8 c.dyn.serviceCount] ∧
          number w1 w0 = c.wear ∧ number h1 h0 = c.hours ∧ number s1 s0 = c.dyn.slip) ∧
    (s.node ≠ .operating ∨ (s.cfg.slot arg.toNat).present = false →
      reportBytes .component arg s = [head 4 arg.toNat]) ∧
    ((s.orders.at arg.toNat).status = .empty → reportBytes .order arg s = [head 5 arg.toNat]) ∧
    (∀ p ∈ ([(.opened, 1), (.done, 2), (.declined, 3)] : List (OrderStatus × Byte)),
      (s.orders.at arg.toNat).status = p.1 → (s.orders.at arg.toNat).wearAtIssue < 65536 →
      let o := s.orders.at arg.toNat
      ∃ w1 w0 i1 i0 c1 c0,
        reportBytes .order arg s =
            [head 5 arg.toNat, BitVec.ofNat 8 o.slot, 0x01, w1, w0, BitVec.ofNat 8 o.urgencyAtIssue, i1, i0, p.2, c1,
              c0] ∧
          number w1 w0 = o.wearAtIssue ∧ number i1 i0 = o.windowAtIssue ∧ number c1 c0 = o.windowAtClose) ∧
    (s.orders.openCount ≤ 32 →
      (reportBytes .list arg s).map BitVec.toNat =
        [192, s.orders.head, s.orders.tail, s.orders.openCount]) ∧
    (reportBytes .commission arg s).map BitVec.toNat = [224, s.account.stagedItems, s.account.lastCommit] ∧
    (s.bus.faultCount ≤ 32 →
      ∃ first second urgency due opens r2 r1 r0,
        reportBytes .sectionInfo arg s =
            [head 2 0, first, second, urgency, due, opens, BitVec.ofNat 8 s.bus.faultCount, 0, r2, r1, r0] ∧
          first.toNat = (if s.node = .operating then 48 + s.tracker.sectionState.code else 32) ∧
          second.toNat = s.planner.window.code * 16 + s.planner.standing.code ∧
          urgency = BitVec.ofNat 8 s.forecast.announced.urgency ∧
          due = BitVec.ofNat 8 s.forecast.announced.dueCount ∧ opens = BitVec.ofNat 8 s.orders.openCount ∧
          r2.toNat * 65536 + r1.toNat * 256 + r0.toNat = s.lines.runHours)

/-! ### Commissioning -/

/-- The line items and the factor tables in COMMISSIONING are staged with every number clamped to its range, one item
more counted, the slot driven, and nothing else changed; a code outside its table refuses the item, which changes
nothing and leaves the slot recessive (R108, R178, section 7.4). That UPSTREAM with in use 0 still stages the address and
the exit is the model's reading (notes/assumptions/22.md, DEDUCED). -/
def Obligations.LineItemsAreStagedClamped : Prop :=
  ∀ s : State, s.node = .commissioning → s.bus.mode ≠ .silenced → s.account.writes = [] →
    let old := s.account.staging
    let staged (command : Instr) (new : Configuration) : Prop :=
      ∃ t, exec command s = .next t ∧
        t =
          { s with
            account := { s.account with staging := new, stagedItems := min 255 (s.account.stagedItems + 1) }
            bus := { s.bus with witness := true }
            out := t.out }
    let refused (command : Instr) : Prop :=
      ∃ t, exec command s = .next t ∧ t = { s with bus := { s.bus with witness := false }, out := t.out }
    (∀ (k : Byte) (hz tWatch tHold : BitVec 16),
      staged (.lineA k hz tWatch tHold)
        { old with
          k := max 1 (min 8 k.toNat)
          hz := max 1 (min 4095 hz.toNat)
          tWatch := max 1 (min 999 tWatch.toNat)
          tHold := if tHold.toNat = 0 then 0 else max 1000 (min 1999 tHold.toNat) }) ∧
    (∀ (g thickness mass source announce j : Byte) (from' : ClassSource),
      (source.toNat, from') ∈ ([(0, .upstream), (1, .classLines), (2, .default)] : List (Nat × ClassSource)) →
      announce.toNat ≤ 1 →
      staged (.lineB g thickness mass source announce j)
        { old with
          g := g.toNat
          defThickness := BitVec.ofNat 3 (min 7 thickness.toNat)
          defMass := BitVec.ofNat 3 (min 7 mass.toNat)
          classSource := from'
          announceDivert := decide (announce.toNat = 1)
          j := j.toNat }) ∧
    (∀ g thickness mass source announce j : Byte, 2 < source.toNat ∨ 1 < announce.toNat →
      refused (.lineB g thickness mass source announce j)) ∧
    (∀ tTransit tBlock tHand : BitVec 16,
      staged (.lineC tTransit tBlock tHand)
        { old with
          tTransit := max 50 (min 5000 tTransit.toNat)
          tBlock := max 20 (min 2000 tBlock.toNat)
          tHand := max 100 (min 10000 tHand.toNat) }) ∧
    (∀ packed : BitVec 80,
      staged (.factors 0 packed)
          { old with
            thicknessFactors :=
              (List.range 8).map fun i => (packed.extractLsb' (70 - 10 * i) 10).toNat } ∧
        staged (.factors 1 packed)
          { old with
            massFactors := (List.range 8).map fun i => (packed.extractLsb' (70 - 10 * i) 10).toNat } ∧
        ∀ table : Byte, 1 < table.toNat → refused (.factors table packed)) ∧
    (∀ entry inUse address exit : Byte,
      (entry.toNat ≤ 1 → inUse.toNat ≤ 1 → exit.toNat ≤ 1 →
        staged (.upstream entry inUse address exit)
          { old with
            upstream :=
              old.upstream.set entry.toNat
                { inUse := decide (inUse.toNat = 1)
                  address := BitVec.ofNat 6 (max 1 (min 62 address.toNat))
                  exit := if exit.toNat = 0 then .straight else .divert } }) ∧
        (1 < entry.toNat ∨ 1 < inUse.toNat ∨ 1 < exit.toNat → refused (.upstream entry inUse address exit))) ∧
    ∀ line function : Byte,
      (∀ p ∈
          ([(0, .masked), (1, .entryEye), (2, .straightEye), (3, .divertEye), (4, .encoder), (5, .tach),
            (6, .motorRun), (7, .maint), (8, .confirm), (9, .decline), (10, .classLine 0), (11, .classLine 1),
            (12, .classLine 2), (13, .classLine 3), (14, .classLine 4), (15, .classLine 5)] : List (Byte × LineFn)),
        function = p.1 → line.toNat < 24 →
        staged (.input line function) { old with functions := old.functions.set line.toNat p.2 }) ∧
        (23 < line.toNat ∨ 15 < function.toNat → refused (.input line function))

/-- SLOT makes a slot present with its fields, a BELT with no tach line; SLOT_B sets R, D and S whether or not it is
present; CLEAR makes it not present. A code, a slot above 31 or a tach line that is no line and not FFh refuses the
item (R52, R178, section 7.4). That CLEAR keeps the other fields, and SLOT keeps R, D and S, is the model's reading
(notes/assumptions/22.md, DEDUCED). -/
def Obligations.SlotItemsAreStagedClamped : Prop :=
  ∀ s : State, s.node = .commissioning → s.bus.mode ≠ .silenced → s.account.writes = [] →
    let old := s.account.staging
    let staged (command : Instr) (n : Nat) (new : SlotConfig) : Prop :=
      ∃ t, exec command s = .next t ∧
        t =
          { s with
            account :=
              { s.account with
                staging := { old with slots := old.slots.set n new }
                stagedItems := min 255 (s.account.stagedItems + 1) }
            bus := { s.bus with witness := true }
            out := t.out }
    let refused (command : Instr) : Prop :=
      ∃ t, exec command s = .next t ∧ t = { s with bus := { s.bus with witness := false }, out := t.out }
    (∀ (n : Byte) (life : BitVec 32) (weight tach : Byte),
      ∀ kind ∈ ([(0, .driveRoller), (1, .pinchRoller), (2, .belt)] : List (Byte × Kind)),
      ∀ path ∈ ([(0, .common), (1, .straight), (2, .divert)] : List (Byte × Path)),
      n.toNat < 32 → tach.toNat < 24 ∨ tach = 0xFF →
      staged (.slot n kind.1 path.1 life weight tach) n.toNat
        { old.slot n.toNat with
          present := true
          kind := kind.2
          path := path.2
          life := max 1 (min 67108863 life.toNat)
          weight := weight.toNat
          tach := if kind.2 = .belt ∨ tach = 0xFF then none else some tach.toNat }) ∧
    (∀ (n kind path : Byte) (life : BitVec 32) (weight tach : Byte),
      31 < n.toNat ∨ 2 < kind.toNat ∨ 2 < path.toNat ∨ (23 < tach.toNat ∧ tach ≠ 0xFF) →
      refused (.slot n kind path life weight tach)) ∧
    (∀ (n : Byte) (ratio distance start : BitVec 16),
      (n.toNat < 32 →
        staged (.slotB n ratio distance start) n.toNat
          { old.slot n.toNat with
            ratio := max 1 ratio.toNat, distance := distance.toNat, start := start.toNat }) ∧
        (31 < n.toNat → refused (.slotB n ratio distance start))) ∧
    ∀ n : Byte,
      (n.toNat < 32 → staged (.clear n) n.toNat { old.slot n.toNat with present := false }) ∧
        (31 < n.toNat → refused (.clear n))

/-- LABEL is staged once: it is refused when a label was ever committed or one has been taken since this start (R179).
Outside COMMISSIONING, and while the writes of a COMMIT are in progress, every CONFIG item is refused and changes
nothing; a SILENCED node takes none (R108, R114, R178, R180). -/
def Obligations.LabelsAreTakenOnce : Prop :=
  ∀ (value : Tag) (s : State), s.node ≠ .starting →
    let item (command : Instr) : Prop :=
      command ∈ [Instr.commit, .label value] ∨
        (∃ k hz tWatch tHold, command = .lineA k hz tWatch tHold) ∨
        (∃ g thickness mass source announce j, command = .lineB g thickness mass source announce j) ∨
        (∃ tTransit tBlock tHand, command = .lineC tTransit tBlock tHand) ∨
        (∃ table packed, command = .factors table packed) ∨
        (∃ entry inUse address exit, command = .upstream entry inUse address exit) ∨
        (∃ line function, command = .input line function) ∨
        (∃ n kind path life weight tach, command = .slot n kind path life weight tach) ∨
        (∃ n ratio distance start, command = .slotB n ratio distance start) ∨ ∃ n, command = .clear n
    (s.bus.mode ≠ .silenced → s.node = .commissioning → s.account.writes = [] →
      s.account.labelCommitted = false → s.account.labelTaken = false →
      ∃ t, exec (.label value) s = .next t ∧
        t =
          { s with
            account :=
              { s.account with
                staging := { s.account.staging with label := value, labelCommitted := true }
                stagedItems := min 255 (s.account.stagedItems + 1)
                labelTaken := true }
            bus := { s.bus with witness := true }
            out := t.out }) ∧
    (s.bus.mode ≠ .silenced → s.account.labelCommitted = true ∨ s.account.labelTaken = true →
      ∃ t, exec (.label value) s = .next t ∧
        t = { s with bus := { s.bus with witness := false }, out := t.out }) ∧
    (s.bus.mode ≠ .silenced → s.node ≠ .commissioning ∨ s.account.writes ≠ [] →
      ∀ command, item command →
        ∃ t, exec command s = .next t ∧
          t = { s with bus := { s.bus with witness := false }, out := t.out }) ∧
    (s.bus.mode = .silenced → ∀ command, item command → exec command s = .next s)

/-- COMMIT of a staging area that fails a check records the lowest failing code and changes nothing else. One that
passes is taken, and COMMIT_WRITES_DONE then leaves the store with the staged configuration, a zeroed record for every
changed slot, s of 0 for a slot whose tach line alone differs, every other component record as it was, an empty order
list if any slot changed, and the node record with the commission count raised, the label, and head and tail as loaded, or
0 once a COMMIT of this start has emptied the list; of the rest of the state the records follow and nothing else changes
(R179 to R181). That a second COMMIT of one start compares with the configuration and the records that the first one left,
and keeps head and tail 0, is the model's reading (notes/assumptions/10.md, DEDUCED); that the raised count and the label
stand from the COMMIT on, and which changed marks it clears, are its choices (notes/assumptions/38.md and 44.md). -/
def Obligations.CommitWritesTheStagedConfiguration : Prop :=
  (∀ s : State, s.node = .commissioning → s.bus.mode ≠ .silenced → s.account.writes = [] → ConfigLaw s →
      WidthLaw s →
      let old := s.cfg
      let new := s.account.staging
      let changed (i : Nat) : Prop :=
        (old.slot i).present ≠ (new.slot i).present ∨
          ((old.slot i).present = true ∧
            ((old.slot i).kind ≠ (new.slot i).kind ∨ (old.slot i).path ≠ (new.slot i).path ∨
              (old.slot i).life ≠ (new.slot i).life))
      (commitResult new ≠ 1 →
        ∃ t, exec .commit s = .next t ∧
          t =
            { s with
              account := { s.account with lastCommit := commitResult new }
              bus := { s.bus with witness := false }
              out := t.out }) ∧
      (commitResult new = 1 →
        ∃ t u, exec .commit s = .next t ∧ exec .commitWritesDone t = .next u ∧
          t.account.lastCommit = 1 ∧ t.account.stagedItems = s.account.stagedItems ∧ t.account.staging = new ∧
          t.bus = { s.bus with witness := true } ∧ t.account.records = s.account.records ∧ u.cfg = new ∧
          u.node = .commissioning ∧ u.account.writes = [] ∧ u.orders = s.orders ∧
          u.account.records.config = stored Config.configurationBytes new ∧
          (∀ i < 32,
            (changed i →
              u.account.records.components.getD i .absent = stored Config.componentBytes DynRecord.zero) ∧
            (¬changed i → (old.slot i).present = true → (old.slot i).tach ≠ (new.slot i).tach →
              u.account.records.components.getD i .absent =
                stored Config.componentBytes { (s.comp i).dyn with slip := 0 }) ∧
            (¬changed i → (old.slot i).present = false ∨ (old.slot i).tach = (new.slot i).tach →
              u.account.records.components.getD i .absent = s.account.records.components.getD i .absent)) ∧
          ((∃ i < 32, changed i) → 
            u.account.records.orders = List.replicate 32 (stored Config.orderBytes .empty)) ∧
          ((∀ i < 32, ¬changed i) → u.account.records.orders = s.account.records.orders) ∧
          ∃ node, u.account.records.node = stored Config.nodeBytes node ∧
            node.commissionCount = min 65535 (s.account.commissionCount + 1) ∧
            node.runHours = s.lines.runHours ∧ node.runMs = s.lines.runMs ∧
            node.windowCount = s.planner.windowCount ∧
            node.label = (if s.account.labelTaken = true then new.label else s.account.label) ∧
            node.labelCommitted = (s.account.labelTaken || s.account.labelCommitted) ∧
            ((∃ i < 32, changed i) ∨ s.account.listEmptied = true → node.head = 0 ∧ node.tail = 0) ∧
            (s.account.listEmptied = false → (∀ i < 32, ¬changed i) →
              node.head = s.orders.head ∧ node.tail = s.orders.tail) ∧
            (u.account.listEmptied = true ↔ (∃ i < 32, changed i) ∨ s.account.listEmptied = true) ∧
            (∀ i < 32,
              (changed i → (u.comp i).dyn = DynRecord.zero ∧ (u.comp i).marked = false) ∧
              (¬changed i → (old.slot i).present = true → (old.slot i).tach ≠ (new.slot i).tach →
                (u.comp i).dyn = { (s.comp i).dyn with slip := 0 } ∧ (u.comp i).marked = false) ∧
              (¬changed i → (old.slot i).present = false ∨ (old.slot i).tach = (new.slot i).tach →
                u.comp i = s.comp i) ∧
              u.comp i = { s.comp i with dyn := (u.comp i).dyn, marked := (u.comp i).marked }) ∧
            u.comps.length = s.comps.length ∧
            t.account = { u.account with records := s.account.records, writes := t.account.writes } ∧
            u =
              { s with
                cfg := new
                cfgGood := true
                comps := u.comps
                account :=
                  { s.account with
                    records := u.account.records
                    lastCommit := 1
                    commissionCount := node.commissionCount
                    label := node.label
                    labelCommitted := node.labelCommitted
                    listEmptied := u.account.listEmptied }
                bus := { s.bus with witness := true }
                out := u.out })) ∧
    ∀ s : State, s.node = .commissioning →
      ∃ t, exec .commitWritesDone s = .next t ∧
        t =
          { s with
            account := { s.account with records := s.account.records.writeAll s.account.writes, writes := [] }
            out := t.out }

/-! ### Laws every step keeps -/

/-- Every step keeps every configuration, record, counter and timer within its range, and every stored configuration
one that COMMIT passes (R1, R12, R40, R52, R53, R81, R151, R163, R178, R180). Of START_COMPLETE it holds because damage
whose check word matches contents outside those ranges, or a configuration that COMMIT would refuse, is left out (the
model's choice, notes/assumptions/8.md). -/
def Obligations.StepsKeepEveryRange : Prop :=
  ∀ s t : State, ConfigLaw s → WidthLaw s → step s = .next t → ConfigLaw t ∧ WidthLaw t

/-- Every step keeps the laws of the Piece Tracker, and RUNNING and STOPPED following MOTOR_RUN (R17, R18, R25, R26,
R33, R36, R38). -/
def Obligations.StepsKeepTheTracker : Prop :=
  ∀ s t : State, TrackerLaw s → MotorLaw s → step s = .next t → TrackerLaw t ∧ MotorLaw t

/-- Every step keeps each derived field of a present record agreeing with its stored ones, each slot that is not present
zero, and the pending values those of the table (R54, R58, R71, R87, R89). -/
def Obligations.StepsKeepTheComponentTable : Prop :=
  ∀ s t : State, TableLaw s → step s = .next t → TableLaw t

/-- Every step keeps the Service Planner quiet outside OPERATING, its view ranked, bounded and without the own address,
its standing as decided, its set within its places, and an open window only while MAINT is high (R39, R138, R145,
R148 to R150, R153, R158, R162). That tracker, forecast and planner stand at their values after power-on outside OPERATING
is the model's reading (notes/assumptions/21.md, DEDUCED). -/
def Obligations.StepsKeepThePlanner : Prop :=
  ∀ s t : State, QuietLaw s → PlannerLaw s → MaintLaw s → step s = .next t →
    QuietLaw t ∧ PlannerLaw t ∧ MaintLaw t

/-- Every step keeps the laws of the transmit queue (at most eight notices, in ascending order of header, among them at
most one CLAIM or WITHDRAW, one live TAKEN and one REPORT, and none in SILENCED), and with them those of the
controller: the fault count from 0 to 32, at 32 exactly while the second of a MUTE runs, and a notice in transmission
only in ACTIVE with the view BUSY (R100, R111, R112, R116, R121 to R123, R125, R127, R130). R121 has at most one TAKEN; that
a TAKEN marked for removal in transmission does not count beside a live one, so that only one live TAKEN is stated, is the
model's reading (notes/assumptions/31.md, DEDUCED). -/
def Obligations.StepsKeepTheBusSide : Prop :=
  ∀ s t : State, QueueLaw s → step s = .next t → QueueLaw t ∧ (BusLaw s → BusLaw t)

/-- Every step keeps the order ring: the OPEN orders are those from the head up to the tail, each of a present slot of
its own, the open-order flags set where they say (R55, R164). -/
def Obligations.StepsKeepTheOrderRing : Prop :=
  ∀ s t : State, ConfigLaw s → WidthLaw s → RingLaw s → step s = .next t → RingLaw t


/-- Every step keeps the SERVICE lamp's pattern that of the first condition of R15's table that holds, and HOLD REQUEST
asserted exactly in OPERATING with a JAMMED section or a component at T_hold. A pattern that changes starts at the beginning
of its phase, and a command that leaves FLASH, FAULT or ON as it is leaves its phase (R15, R16). -/
def Obligations.StepsKeepTheOutputs : Prop :=
  ∀ s t : State, OutputLaw s → step s = .next t →
    OutputLaw t ∧ (t.out.lamp ≠ s.out.lamp → t.out.lampPhase = 0) ∧
      (t.out.lamp = s.out.lamp → t.out.lamp ≠ .off → s.pending ≠ [] → t.out.lampPhase = s.out.lampPhase)

/-- State.reset meets every law (the state before power becomes good: the model's choice, notes/assumptions/6.md). -/
def Obligations.ResetMeetsEveryLaw : Prop :=
  ConfigLaw State.reset ∧ WidthLaw State.reset ∧ QuietLaw State.reset ∧ TrackerLaw State.reset ∧
    MotorLaw State.reset ∧ TableLaw State.reset ∧ Capped State.reset ∧ PlannerLaw State.reset ∧
    MaintLaw State.reset ∧ QueueLaw State.reset ∧ RingLaw State.reset ∧ BusLaw State.reset ∧
    OutputLaw State.reset
end

