-- ==== Sys2Proof/Laws/State.lean ====
section
/-! SUPPORT. One lemma per field for each named update of the state, each true by unfolding: what the update writes,
and that it leaves the other fields. -/

namespace Sys2Proof.Machine

open Sys2Proof

variable (s : State)

/-! ### State.hand -/

@[simp] theorem State.hand_power (work : List Instr) : (s.hand work).power = s.power := rfl
@[simp] theorem State.hand_node (work : List Instr) : (s.hand work).node = s.node := rfl
@[simp] theorem State.hand_resetLine (work : List Instr) : (s.hand work).resetLine = s.resetLine := rfl
@[simp] theorem State.hand_straps (work : List Instr) : (s.hand work).straps = s.straps := rfl
@[simp] theorem State.hand_pins (work : List Instr) : (s.hand work).pins = s.pins := rfl
@[simp] theorem State.hand_cfg (work : List Instr) : (s.hand work).cfg = s.cfg := rfl
@[simp] theorem State.hand_cfgGood (work : List Instr) : (s.hand work).cfgGood = s.cfgGood := rfl
@[simp] theorem State.hand_lines (work : List Instr) : (s.hand work).lines = s.lines := rfl
@[simp] theorem State.hand_tracker (work : List Instr) : (s.hand work).tracker = s.tracker := rfl
@[simp] theorem State.hand_comps (work : List Instr) : (s.hand work).comps = s.comps := rfl
@[simp] theorem State.hand_forecast (work : List Instr) : (s.hand work).forecast = s.forecast := rfl
@[simp] theorem State.hand_planner (work : List Instr) : (s.hand work).planner = s.planner := rfl
@[simp] theorem State.hand_orders (work : List Instr) : (s.hand work).orders = s.orders := rfl
@[simp] theorem State.hand_bus (work : List Instr) : (s.hand work).bus = s.bus := rfl
@[simp] theorem State.hand_queue (work : List Instr) : (s.hand work).queue = s.queue := rfl
@[simp] theorem State.hand_query (work : List Instr) : (s.hand work).query = s.query := rfl
@[simp] theorem State.hand_account (work : List Instr) : (s.hand work).account = s.account := rfl
@[simp] theorem State.hand_out (work : List Instr) : (s.hand work).out = s.out := rfl
@[simp] theorem State.hand_handed (work : List Instr) : (s.hand work).handed = s.handed ++ work := rfl
@[simp] theorem State.hand_choices (work : List Instr) : (s.hand work).choices = s.choices := rfl
@[simp] theorem State.hand_pending (work : List Instr) : (s.hand work).pending = s.pending := rfl

/-! ### State.take -/

@[simp] theorem State.take_power (work : Instr) : (s.take work).power = s.power := rfl
@[simp] theorem State.take_node (work : Instr) : (s.take work).node = s.node := rfl
@[simp] theorem State.take_resetLine (work : Instr) : (s.take work).resetLine = s.resetLine := rfl
@[simp] theorem State.take_straps (work : Instr) : (s.take work).straps = s.straps := rfl
@[simp] theorem State.take_pins (work : Instr) : (s.take work).pins = s.pins := rfl
@[simp] theorem State.take_cfg (work : Instr) : (s.take work).cfg = s.cfg := rfl
@[simp] theorem State.take_cfgGood (work : Instr) : (s.take work).cfgGood = s.cfgGood := rfl
@[simp] theorem State.take_lines (work : Instr) : (s.take work).lines = s.lines := rfl
@[simp] theorem State.take_tracker (work : Instr) : (s.take work).tracker = s.tracker := rfl
@[simp] theorem State.take_comps (work : Instr) : (s.take work).comps = s.comps := rfl
@[simp] theorem State.take_forecast (work : Instr) : (s.take work).forecast = s.forecast := rfl
@[simp] theorem State.take_planner (work : Instr) : (s.take work).planner = s.planner := rfl
@[simp] theorem State.take_orders (work : Instr) : (s.take work).orders = s.orders := rfl
@[simp] theorem State.take_bus (work : Instr) : (s.take work).bus = s.bus := rfl
@[simp] theorem State.take_queue (work : Instr) : (s.take work).queue = s.queue := rfl
@[simp] theorem State.take_query (work : Instr) : (s.take work).query = s.query := rfl
@[simp] theorem State.take_account (work : Instr) : (s.take work).account = s.account := rfl
@[simp] theorem State.take_out (work : Instr) : (s.take work).out = s.out := rfl
@[simp] theorem State.take_handed (work : Instr) : (s.take work).handed = s.handed.erase work := rfl
@[simp] theorem State.take_choices (work : Instr) : (s.take work).choices = s.choices := rfl
@[simp] theorem State.take_pending (work : Instr) : (s.take work).pending = s.pending := rfl

/-! ### State.settle -/

@[simp] theorem State.settle_power : s.settle.power = s.power := rfl
@[simp] theorem State.settle_node : s.settle.node = s.node := rfl
@[simp] theorem State.settle_resetLine : s.settle.resetLine = s.resetLine := rfl
@[simp] theorem State.settle_straps : s.settle.straps = s.straps := rfl
@[simp] theorem State.settle_pins : s.settle.pins = s.pins := rfl
@[simp] theorem State.settle_cfg : s.settle.cfg = s.cfg := rfl
@[simp] theorem State.settle_cfgGood : s.settle.cfgGood = s.cfgGood := rfl
@[simp] theorem State.settle_lines : s.settle.lines = s.lines := rfl
@[simp] theorem State.settle_tracker : s.settle.tracker = s.tracker := rfl
@[simp] theorem State.settle_comps : s.settle.comps = s.comps := rfl
@[simp] theorem State.settle_forecast : s.settle.forecast = s.forecast := rfl
@[simp] theorem State.settle_planner : s.settle.planner = s.planner := rfl
@[simp] theorem State.settle_orders : s.settle.orders = s.orders := rfl
@[simp] theorem State.settle_bus : s.settle.bus = s.bus := rfl
@[simp] theorem State.settle_queue : s.settle.queue = s.queue := rfl
@[simp] theorem State.settle_query : s.settle.query = s.query := rfl
@[simp] theorem State.settle_account : s.settle.account = s.account := rfl
@[simp] theorem State.settle_handed : s.settle.handed = s.handed := rfl
@[simp] theorem State.settle_choices : s.settle.choices = s.choices := rfl
@[simp] theorem State.settle_pending : s.settle.pending = s.pending := rfl

/-! ### State.edge -/

@[simp] theorem State.edge_power (fn : LineFn) (high : Bool) : (s.edge fn high).power = s.power := rfl
@[simp] theorem State.edge_node (fn : LineFn) (high : Bool) : (s.edge fn high).node = s.node := rfl
@[simp] theorem State.edge_resetLine (fn : LineFn) (high : Bool) : (s.edge fn high).resetLine = s.resetLine := rfl
@[simp] theorem State.edge_straps (fn : LineFn) (high : Bool) : (s.edge fn high).straps = s.straps := rfl
@[simp] theorem State.edge_pins (fn : LineFn) (high : Bool) :
    (s.edge fn high).pins =
      { s.pins with lines := putPins fn high s.cfg.functions s.pins.lines } := rfl
@[simp] theorem State.edge_cfg (fn : LineFn) (high : Bool) : (s.edge fn high).cfg = s.cfg := rfl
@[simp] theorem State.edge_cfgGood (fn : LineFn) (high : Bool) : (s.edge fn high).cfgGood = s.cfgGood := rfl
@[simp] theorem State.edge_lines (fn : LineFn) (high : Bool) :
    (s.edge fn high).lines =
      { s.lines with levels := s.lines.levels.put fn high } := rfl
@[simp] theorem State.edge_tracker (fn : LineFn) (high : Bool) : (s.edge fn high).tracker = s.tracker := rfl
@[simp] theorem State.edge_comps (fn : LineFn) (high : Bool) : (s.edge fn high).comps = s.comps := rfl
@[simp] theorem State.edge_forecast (fn : LineFn) (high : Bool) : (s.edge fn high).forecast = s.forecast := rfl
@[simp] theorem State.edge_planner (fn : LineFn) (high : Bool) : (s.edge fn high).planner = s.planner := rfl
@[simp] theorem State.edge_orders (fn : LineFn) (high : Bool) : (s.edge fn high).orders = s.orders := rfl
@[simp] theorem State.edge_bus (fn : LineFn) (high : Bool) : (s.edge fn high).bus = s.bus := rfl
@[simp] theorem State.edge_queue (fn : LineFn) (high : Bool) : (s.edge fn high).queue = s.queue := rfl
@[simp] theorem State.edge_query (fn : LineFn) (high : Bool) : (s.edge fn high).query = s.query := rfl
@[simp] theorem State.edge_account (fn : LineFn) (high : Bool) : (s.edge fn high).account = s.account := rfl
@[simp] theorem State.edge_out (fn : LineFn) (high : Bool) : (s.edge fn high).out = s.out := rfl
@[simp] theorem State.edge_handed (fn : LineFn) (high : Bool) : (s.edge fn high).handed = s.handed := rfl
@[simp] theorem State.edge_choices (fn : LineFn) (high : Bool) : (s.edge fn high).choices = s.choices := rfl
@[simp] theorem State.edge_pending (fn : LineFn) (high : Bool) : (s.edge fn high).pending = s.pending := rfl

/-! ### State.setWaiting -/

@[simp] theorem State.setWaiting_power (waiting : List Notice) : (s.setWaiting waiting).power = s.power := rfl
@[simp] theorem State.setWaiting_node (waiting : List Notice) : (s.setWaiting waiting).node = s.node := rfl
@[simp] theorem State.setWaiting_resetLine (waiting : List Notice) :
    (s.setWaiting waiting).resetLine =
      s.resetLine := rfl
@[simp] theorem State.setWaiting_straps (waiting : List Notice) : (s.setWaiting waiting).straps = s.straps := rfl
@[simp] theorem State.setWaiting_pins (waiting : List Notice) : (s.setWaiting waiting).pins = s.pins := rfl
@[simp] theorem State.setWaiting_cfg (waiting : List Notice) : (s.setWaiting waiting).cfg = s.cfg := rfl
@[simp] theorem State.setWaiting_cfgGood (waiting : List Notice) : (s.setWaiting waiting).cfgGood = s.cfgGood := rfl
@[simp] theorem State.setWaiting_lines (waiting : List Notice) : (s.setWaiting waiting).lines = s.lines := rfl
@[simp] theorem State.setWaiting_tracker (waiting : List Notice) : (s.setWaiting waiting).tracker = s.tracker := rfl
@[simp] theorem State.setWaiting_comps (waiting : List Notice) : (s.setWaiting waiting).comps = s.comps := rfl
@[simp] theorem State.setWaiting_forecast (waiting : List Notice) :
    (s.setWaiting waiting).forecast =
      s.forecast := rfl
@[simp] theorem State.setWaiting_planner (waiting : List Notice) : (s.setWaiting waiting).planner = s.planner := rfl
@[simp] theorem State.setWaiting_orders (waiting : List Notice) : (s.setWaiting waiting).orders = s.orders := rfl
@[simp] theorem State.setWaiting_bus (waiting : List Notice) : (s.setWaiting waiting).bus = s.bus := rfl
@[simp] theorem State.setWaiting_queue (waiting : List Notice) :
    (s.setWaiting waiting).queue =
      { s.queue with waiting := waiting } := rfl
@[simp] theorem State.setWaiting_query (waiting : List Notice) : (s.setWaiting waiting).query = s.query := rfl
@[simp] theorem State.setWaiting_account (waiting : List Notice) : (s.setWaiting waiting).account = s.account := rfl
@[simp] theorem State.setWaiting_out (waiting : List Notice) : (s.setWaiting waiting).out = s.out := rfl
@[simp] theorem State.setWaiting_handed (waiting : List Notice) : (s.setWaiting waiting).handed = s.handed := rfl
@[simp] theorem State.setWaiting_choices (waiting : List Notice) : (s.setWaiting waiting).choices = s.choices := rfl
@[simp] theorem State.setWaiting_pending (waiting : List Notice) : (s.setWaiting waiting).pending = s.pending := rfl

/-! ### State.joinQueue -/

@[simp] theorem State.joinQueue_power (n : Notice) : (s.joinQueue n).power = s.power := rfl
@[simp] theorem State.joinQueue_node (n : Notice) : (s.joinQueue n).node = s.node := rfl
@[simp] theorem State.joinQueue_resetLine (n : Notice) : (s.joinQueue n).resetLine = s.resetLine := rfl
@[simp] theorem State.joinQueue_straps (n : Notice) : (s.joinQueue n).straps = s.straps := rfl
@[simp] theorem State.joinQueue_pins (n : Notice) : (s.joinQueue n).pins = s.pins := rfl
@[simp] theorem State.joinQueue_cfg (n : Notice) : (s.joinQueue n).cfg = s.cfg := rfl
@[simp] theorem State.joinQueue_cfgGood (n : Notice) : (s.joinQueue n).cfgGood = s.cfgGood := rfl
@[simp] theorem State.joinQueue_lines (n : Notice) : (s.joinQueue n).lines = s.lines := rfl
@[simp] theorem State.joinQueue_tracker (n : Notice) : (s.joinQueue n).tracker = s.tracker := rfl
@[simp] theorem State.joinQueue_comps (n : Notice) : (s.joinQueue n).comps = s.comps := rfl
@[simp] theorem State.joinQueue_forecast (n : Notice) : (s.joinQueue n).forecast = s.forecast := rfl
@[simp] theorem State.joinQueue_planner (n : Notice) : (s.joinQueue n).planner = s.planner := rfl
@[simp] theorem State.joinQueue_orders (n : Notice) : (s.joinQueue n).orders = s.orders := rfl
@[simp] theorem State.joinQueue_bus (n : Notice) : (s.joinQueue n).bus = s.bus := rfl
@[simp] theorem State.joinQueue_queue (n : Notice) :
    (s.joinQueue n).queue =
      { s.queue with waiting := joinAfter s.straps.addr n s.queue.waiting } := rfl
@[simp] theorem State.joinQueue_query (n : Notice) : (s.joinQueue n).query = s.query := rfl
@[simp] theorem State.joinQueue_account (n : Notice) : (s.joinQueue n).account = s.account := rfl
@[simp] theorem State.joinQueue_out (n : Notice) : (s.joinQueue n).out = s.out := rfl
@[simp] theorem State.joinQueue_handed (n : Notice) : (s.joinQueue n).handed = s.handed := rfl
@[simp] theorem State.joinQueue_choices (n : Notice) : (s.joinQueue n).choices = s.choices := rfl
@[simp] theorem State.joinQueue_pending (n : Notice) : (s.joinQueue n).pending = s.pending := rfl

/-! ### State.countDropped -/

@[simp] theorem State.countDropped_power : s.countDropped.power = s.power := rfl
@[simp] theorem State.countDropped_node : s.countDropped.node = s.node := rfl
@[simp] theorem State.countDropped_resetLine : s.countDropped.resetLine = s.resetLine := rfl
@[simp] theorem State.countDropped_straps : s.countDropped.straps = s.straps := rfl
@[simp] theorem State.countDropped_pins : s.countDropped.pins = s.pins := rfl
@[simp] theorem State.countDropped_cfg : s.countDropped.cfg = s.cfg := rfl
@[simp] theorem State.countDropped_cfgGood : s.countDropped.cfgGood = s.cfgGood := rfl
@[simp] theorem State.countDropped_lines : s.countDropped.lines = s.lines := rfl
@[simp] theorem State.countDropped_tracker : s.countDropped.tracker = s.tracker := rfl
@[simp] theorem State.countDropped_comps : s.countDropped.comps = s.comps := rfl
@[simp] theorem State.countDropped_forecast : s.countDropped.forecast = s.forecast := rfl
@[simp] theorem State.countDropped_planner : s.countDropped.planner = s.planner := rfl
@[simp] theorem State.countDropped_orders : s.countDropped.orders = s.orders := rfl
@[simp] theorem State.countDropped_bus : s.countDropped.bus = s.bus := rfl
@[simp] theorem State.countDropped_queue :
    s.countDropped.queue =
      { s.queue with dropped := satAdd Config.countTop s.queue.dropped 1 } := rfl
@[simp] theorem State.countDropped_query : s.countDropped.query = s.query := rfl
@[simp] theorem State.countDropped_account : s.countDropped.account = s.account := rfl
@[simp] theorem State.countDropped_out : s.countDropped.out = s.out := rfl
@[simp] theorem State.countDropped_handed : s.countDropped.handed = s.handed := rfl
@[simp] theorem State.countDropped_choices : s.countDropped.choices = s.choices := rfl
@[simp] theorem State.countDropped_pending : s.countDropped.pending = s.pending := rfl

/-! ### State.removeTaken -/

@[simp] theorem State.removeTaken_power : s.removeTaken.power = s.power := rfl
@[simp] theorem State.removeTaken_node : s.removeTaken.node = s.node := rfl
@[simp] theorem State.removeTaken_resetLine : s.removeTaken.resetLine = s.resetLine := rfl
@[simp] theorem State.removeTaken_straps : s.removeTaken.straps = s.straps := rfl
@[simp] theorem State.removeTaken_pins : s.removeTaken.pins = s.pins := rfl
@[simp] theorem State.removeTaken_cfg : s.removeTaken.cfg = s.cfg := rfl
@[simp] theorem State.removeTaken_cfgGood : s.removeTaken.cfgGood = s.cfgGood := rfl
@[simp] theorem State.removeTaken_lines : s.removeTaken.lines = s.lines := rfl
@[simp] theorem State.removeTaken_tracker : s.removeTaken.tracker = s.tracker := rfl
@[simp] theorem State.removeTaken_comps : s.removeTaken.comps = s.comps := rfl
@[simp] theorem State.removeTaken_forecast : s.removeTaken.forecast = s.forecast := rfl
@[simp] theorem State.removeTaken_planner : s.removeTaken.planner = s.planner := rfl
@[simp] theorem State.removeTaken_orders : s.removeTaken.orders = s.orders := rfl
@[simp] theorem State.removeTaken_bus : s.removeTaken.bus = s.bus := rfl
@[simp] theorem State.removeTaken_query : s.removeTaken.query = s.query := rfl
@[simp] theorem State.removeTaken_account : s.removeTaken.account = s.account := rfl
@[simp] theorem State.removeTaken_out : s.removeTaken.out = s.out := rfl
@[simp] theorem State.removeTaken_handed : s.removeTaken.handed = s.handed := rfl
@[simp] theorem State.removeTaken_choices : s.removeTaken.choices = s.choices := rfl
@[simp] theorem State.removeTaken_pending : s.removeTaken.pending = s.pending := rfl

/-! ### State.setComps -/

@[simp] theorem State.setComps_power (comps : List Component) : (s.setComps comps).power = s.power := rfl
@[simp] theorem State.setComps_node (comps : List Component) : (s.setComps comps).node = s.node := rfl
@[simp] theorem State.setComps_resetLine (comps : List Component) : (s.setComps comps).resetLine = s.resetLine := rfl
@[simp] theorem State.setComps_straps (comps : List Component) : (s.setComps comps).straps = s.straps := rfl
@[simp] theorem State.setComps_pins (comps : List Component) : (s.setComps comps).pins = s.pins := rfl
@[simp] theorem State.setComps_cfg (comps : List Component) : (s.setComps comps).cfg = s.cfg := rfl
@[simp] theorem State.setComps_cfgGood (comps : List Component) : (s.setComps comps).cfgGood = s.cfgGood := rfl
@[simp] theorem State.setComps_lines (comps : List Component) : (s.setComps comps).lines = s.lines := rfl
@[simp] theorem State.setComps_tracker (comps : List Component) : (s.setComps comps).tracker = s.tracker := rfl
@[simp] theorem State.setComps_comps (comps : List Component) : (s.setComps comps).comps = comps := rfl
@[simp] theorem State.setComps_forecast (comps : List Component) :
    (s.setComps comps).forecast =
      { s.forecast with pending := nodeForecast s.cfg.slots comps } := rfl
@[simp] theorem State.setComps_planner (comps : List Component) : (s.setComps comps).planner = s.planner := rfl
@[simp] theorem State.setComps_orders (comps : List Component) : (s.setComps comps).orders = s.orders := rfl
@[simp] theorem State.setComps_bus (comps : List Component) : (s.setComps comps).bus = s.bus := rfl
@[simp] theorem State.setComps_queue (comps : List Component) : (s.setComps comps).queue = s.queue := rfl
@[simp] theorem State.setComps_query (comps : List Component) : (s.setComps comps).query = s.query := rfl
@[simp] theorem State.setComps_account (comps : List Component) : (s.setComps comps).account = s.account := rfl
@[simp] theorem State.setComps_out (comps : List Component) : (s.setComps comps).out = s.out := rfl
@[simp] theorem State.setComps_handed (comps : List Component) : (s.setComps comps).handed = s.handed := rfl
@[simp] theorem State.setComps_choices (comps : List Component) : (s.setComps comps).choices = s.choices := rfl
@[simp] theorem State.setComps_pending (comps : List Component) : (s.setComps comps).pending = s.pending := rfl

/-! ### State.decideStanding -/

@[simp] theorem State.decideStanding_power : s.decideStanding.power = s.power := rfl
@[simp] theorem State.decideStanding_node : s.decideStanding.node = s.node := rfl
@[simp] theorem State.decideStanding_resetLine : s.decideStanding.resetLine = s.resetLine := rfl
@[simp] theorem State.decideStanding_straps : s.decideStanding.straps = s.straps := rfl
@[simp] theorem State.decideStanding_pins : s.decideStanding.pins = s.pins := rfl
@[simp] theorem State.decideStanding_cfg : s.decideStanding.cfg = s.cfg := rfl
@[simp] theorem State.decideStanding_cfgGood : s.decideStanding.cfgGood = s.cfgGood := rfl
@[simp] theorem State.decideStanding_lines : s.decideStanding.lines = s.lines := rfl
@[simp] theorem State.decideStanding_tracker : s.decideStanding.tracker = s.tracker := rfl
@[simp] theorem State.decideStanding_comps : s.decideStanding.comps = s.comps := rfl
@[simp] theorem State.decideStanding_forecast : s.decideStanding.forecast = s.forecast := rfl
@[simp] theorem State.decideStanding_planner :
    s.decideStanding.planner =
      { s.planner with
        standing := standingOf s.cfg.k s.forecast.announced.urgency s.straps.addr s.planner.view } := rfl
@[simp] theorem State.decideStanding_orders : s.decideStanding.orders = s.orders := rfl
@[simp] theorem State.decideStanding_bus : s.decideStanding.bus = s.bus := rfl
@[simp] theorem State.decideStanding_queue : s.decideStanding.queue = s.queue := rfl
@[simp] theorem State.decideStanding_query : s.decideStanding.query = s.query := rfl
@[simp] theorem State.decideStanding_account : s.decideStanding.account = s.account := rfl
@[simp] theorem State.decideStanding_out : s.decideStanding.out = s.out := rfl
@[simp] theorem State.decideStanding_handed : s.decideStanding.handed = s.handed := rfl
@[simp] theorem State.decideStanding_choices : s.decideStanding.choices = s.choices := rfl
@[simp] theorem State.decideStanding_pending : s.decideStanding.pending = s.pending := rfl

/-! ### State.copyAnnounced -/

@[simp] theorem State.copyAnnounced_power : s.copyAnnounced.power = s.power := rfl
@[simp] theorem State.copyAnnounced_node : s.copyAnnounced.node = s.node := rfl
@[simp] theorem State.copyAnnounced_resetLine : s.copyAnnounced.resetLine = s.resetLine := rfl
@[simp] theorem State.copyAnnounced_straps : s.copyAnnounced.straps = s.straps := rfl
@[simp] theorem State.copyAnnounced_pins : s.copyAnnounced.pins = s.pins := rfl
@[simp] theorem State.copyAnnounced_cfg : s.copyAnnounced.cfg = s.cfg := rfl
@[simp] theorem State.copyAnnounced_cfgGood : s.copyAnnounced.cfgGood = s.cfgGood := rfl
@[simp] theorem State.copyAnnounced_lines : s.copyAnnounced.lines = s.lines := rfl
@[simp] theorem State.copyAnnounced_tracker : s.copyAnnounced.tracker = s.tracker := rfl
@[simp] theorem State.copyAnnounced_comps : s.copyAnnounced.comps = s.comps := rfl
@[simp] theorem State.copyAnnounced_forecast :
    s.copyAnnounced.forecast =
      { s.forecast with announced := s.forecast.pending } := rfl
@[simp] theorem State.copyAnnounced_planner :
    s.copyAnnounced.planner =
      { s.planner with
        standing := standingOf s.cfg.k s.forecast.pending.urgency s.straps.addr s.planner.view } := rfl
@[simp] theorem State.copyAnnounced_orders : s.copyAnnounced.orders = s.orders := rfl
@[simp] theorem State.copyAnnounced_bus : s.copyAnnounced.bus = s.bus := rfl
@[simp] theorem State.copyAnnounced_queue : s.copyAnnounced.queue = s.queue := rfl
@[simp] theorem State.copyAnnounced_query : s.copyAnnounced.query = s.query := rfl
@[simp] theorem State.copyAnnounced_account : s.copyAnnounced.account = s.account := rfl
@[simp] theorem State.copyAnnounced_out : s.copyAnnounced.out = s.out := rfl
@[simp] theorem State.copyAnnounced_handed : s.copyAnnounced.handed = s.handed := rfl
@[simp] theorem State.copyAnnounced_choices : s.copyAnnounced.choices = s.choices := rfl
@[simp] theorem State.copyAnnounced_pending : s.copyAnnounced.pending = s.pending := rfl

/-! ### State.setPlanner -/

@[simp] theorem State.setPlanner_power (p : Planner) : (s.setPlanner p).power = s.power := rfl
@[simp] theorem State.setPlanner_node (p : Planner) : (s.setPlanner p).node = s.node := rfl
@[simp] theorem State.setPlanner_resetLine (p : Planner) : (s.setPlanner p).resetLine = s.resetLine := rfl
@[simp] theorem State.setPlanner_straps (p : Planner) : (s.setPlanner p).straps = s.straps := rfl
@[simp] theorem State.setPlanner_pins (p : Planner) : (s.setPlanner p).pins = s.pins := rfl
@[simp] theorem State.setPlanner_cfg (p : Planner) : (s.setPlanner p).cfg = s.cfg := rfl
@[simp] theorem State.setPlanner_cfgGood (p : Planner) : (s.setPlanner p).cfgGood = s.cfgGood := rfl
@[simp] theorem State.setPlanner_lines (p : Planner) : (s.setPlanner p).lines = s.lines := rfl
@[simp] theorem State.setPlanner_tracker (p : Planner) : (s.setPlanner p).tracker = s.tracker := rfl
@[simp] theorem State.setPlanner_comps (p : Planner) : (s.setPlanner p).comps = s.comps := rfl
@[simp] theorem State.setPlanner_forecast (p : Planner) : (s.setPlanner p).forecast = s.forecast := rfl
@[simp] theorem State.setPlanner_planner (p : Planner) : (s.setPlanner p).planner = p := rfl
@[simp] theorem State.setPlanner_orders (p : Planner) : (s.setPlanner p).orders = s.orders := rfl
@[simp] theorem State.setPlanner_bus (p : Planner) : (s.setPlanner p).bus = s.bus := rfl
@[simp] theorem State.setPlanner_queue (p : Planner) : (s.setPlanner p).queue = s.queue := rfl
@[simp] theorem State.setPlanner_query (p : Planner) : (s.setPlanner p).query = s.query := rfl
@[simp] theorem State.setPlanner_account (p : Planner) : (s.setPlanner p).account = s.account := rfl
@[simp] theorem State.setPlanner_out (p : Planner) : (s.setPlanner p).out = s.out := rfl
@[simp] theorem State.setPlanner_handed (p : Planner) : (s.setPlanner p).handed = s.handed := rfl
@[simp] theorem State.setPlanner_choices (p : Planner) : (s.setPlanner p).choices = s.choices := rfl
@[simp] theorem State.setPlanner_pending (p : Planner) : (s.setPlanner p).pending = s.pending := rfl

/-! ### State.setView -/

@[simp] theorem State.setView_power (view : List ClaimEntry) : (s.setView view).power = s.power := rfl
@[simp] theorem State.setView_node (view : List ClaimEntry) : (s.setView view).node = s.node := rfl
@[simp] theorem State.setView_resetLine (view : List ClaimEntry) : (s.setView view).resetLine = s.resetLine := rfl
@[simp] theorem State.setView_straps (view : List ClaimEntry) : (s.setView view).straps = s.straps := rfl
@[simp] theorem State.setView_pins (view : List ClaimEntry) : (s.setView view).pins = s.pins := rfl
@[simp] theorem State.setView_cfg (view : List ClaimEntry) : (s.setView view).cfg = s.cfg := rfl
@[simp] theorem State.setView_cfgGood (view : List ClaimEntry) : (s.setView view).cfgGood = s.cfgGood := rfl
@[simp] theorem State.setView_lines (view : List ClaimEntry) : (s.setView view).lines = s.lines := rfl
@[simp] theorem State.setView_tracker (view : List ClaimEntry) : (s.setView view).tracker = s.tracker := rfl
@[simp] theorem State.setView_comps (view : List ClaimEntry) : (s.setView view).comps = s.comps := rfl
@[simp] theorem State.setView_forecast (view : List ClaimEntry) : (s.setView view).forecast = s.forecast := rfl
@[simp] theorem State.setView_planner (view : List ClaimEntry) :
    (s.setView view).planner =
      { s.planner with
        view := view,
        standing := standingOf s.cfg.k s.forecast.announced.urgency s.straps.addr view } := rfl
@[simp] theorem State.setView_orders (view : List ClaimEntry) : (s.setView view).orders = s.orders := rfl
@[simp] theorem State.setView_bus (view : List ClaimEntry) : (s.setView view).bus = s.bus := rfl
@[simp] theorem State.setView_queue (view : List ClaimEntry) : (s.setView view).queue = s.queue := rfl
@[simp] theorem State.setView_query (view : List ClaimEntry) : (s.setView view).query = s.query := rfl
@[simp] theorem State.setView_account (view : List ClaimEntry) : (s.setView view).account = s.account := rfl
@[simp] theorem State.setView_out (view : List ClaimEntry) : (s.setView view).out = s.out := rfl
@[simp] theorem State.setView_handed (view : List ClaimEntry) : (s.setView view).handed = s.handed := rfl
@[simp] theorem State.setView_choices (view : List ClaimEntry) : (s.setView view).choices = s.choices := rfl
@[simp] theorem State.setView_pending (view : List ClaimEntry) : (s.setView view).pending = s.pending := rfl

/-! ### State.countWindow -/

@[simp] theorem State.countWindow_power : s.countWindow.power = s.power := rfl
@[simp] theorem State.countWindow_node : s.countWindow.node = s.node := rfl
@[simp] theorem State.countWindow_resetLine : s.countWindow.resetLine = s.resetLine := rfl
@[simp] theorem State.countWindow_straps : s.countWindow.straps = s.straps := rfl
@[simp] theorem State.countWindow_pins : s.countWindow.pins = s.pins := rfl
@[simp] theorem State.countWindow_cfg : s.countWindow.cfg = s.cfg := rfl
@[simp] theorem State.countWindow_cfgGood : s.countWindow.cfgGood = s.cfgGood := rfl
@[simp] theorem State.countWindow_lines : s.countWindow.lines = s.lines := rfl
@[simp] theorem State.countWindow_tracker : s.countWindow.tracker = s.tracker := rfl
@[simp] theorem State.countWindow_comps : s.countWindow.comps = s.comps := rfl
@[simp] theorem State.countWindow_forecast : s.countWindow.forecast = s.forecast := rfl
@[simp] theorem State.countWindow_orders : s.countWindow.orders = s.orders := rfl
@[simp] theorem State.countWindow_bus : s.countWindow.bus = s.bus := rfl
@[simp] theorem State.countWindow_queue : s.countWindow.queue = s.queue := rfl
@[simp] theorem State.countWindow_query : s.countWindow.query = s.query := rfl
@[simp] theorem State.countWindow_account : s.countWindow.account = { s.account with nodeMarked := true } := rfl
@[simp] theorem State.countWindow_out : s.countWindow.out = s.out := rfl
@[simp] theorem State.countWindow_handed : s.countWindow.handed = s.handed := rfl
@[simp] theorem State.countWindow_choices : s.countWindow.choices = s.choices := rfl
@[simp] theorem State.countWindow_pending : s.countWindow.pending = s.pending := rfl

/-! ### State.setBus -/

@[simp] theorem State.setBus_power (b : BusController) : (s.setBus b).power = s.power := rfl
@[simp] theorem State.setBus_node (b : BusController) : (s.setBus b).node = s.node := rfl
@[simp] theorem State.setBus_resetLine (b : BusController) : (s.setBus b).resetLine = s.resetLine := rfl
@[simp] theorem State.setBus_straps (b : BusController) : (s.setBus b).straps = s.straps := rfl
@[simp] theorem State.setBus_pins (b : BusController) : (s.setBus b).pins = s.pins := rfl
@[simp] theorem State.setBus_cfg (b : BusController) : (s.setBus b).cfg = s.cfg := rfl
@[simp] theorem State.setBus_cfgGood (b : BusController) : (s.setBus b).cfgGood = s.cfgGood := rfl
@[simp] theorem State.setBus_lines (b : BusController) : (s.setBus b).lines = s.lines := rfl
@[simp] theorem State.setBus_tracker (b : BusController) : (s.setBus b).tracker = s.tracker := rfl
@[simp] theorem State.setBus_comps (b : BusController) : (s.setBus b).comps = s.comps := rfl
@[simp] theorem State.setBus_forecast (b : BusController) : (s.setBus b).forecast = s.forecast := rfl
@[simp] theorem State.setBus_planner (b : BusController) : (s.setBus b).planner = s.planner := rfl
@[simp] theorem State.setBus_orders (b : BusController) : (s.setBus b).orders = s.orders := rfl
@[simp] theorem State.setBus_bus (b : BusController) : (s.setBus b).bus = b := rfl
@[simp] theorem State.setBus_queue (b : BusController) : (s.setBus b).queue = s.queue := rfl
@[simp] theorem State.setBus_query (b : BusController) : (s.setBus b).query = s.query := rfl
@[simp] theorem State.setBus_account (b : BusController) : (s.setBus b).account = s.account := rfl
@[simp] theorem State.setBus_out (b : BusController) : (s.setBus b).out = s.out := rfl
@[simp] theorem State.setBus_handed (b : BusController) : (s.setBus b).handed = s.handed := rfl
@[simp] theorem State.setBus_choices (b : BusController) : (s.setBus b).choices = s.choices := rfl
@[simp] theorem State.setBus_pending (b : BusController) : (s.setBus b).pending = s.pending := rfl

/-! ### State.setWitness -/

@[simp] theorem State.setWitness_power (driven : Bool) : (s.setWitness driven).power = s.power := rfl
@[simp] theorem State.setWitness_node (driven : Bool) : (s.setWitness driven).node = s.node := rfl
@[simp] theorem State.setWitness_resetLine (driven : Bool) : (s.setWitness driven).resetLine = s.resetLine := rfl
@[simp] theorem State.setWitness_straps (driven : Bool) : (s.setWitness driven).straps = s.straps := rfl
@[simp] theorem State.setWitness_pins (driven : Bool) : (s.setWitness driven).pins = s.pins := rfl
@[simp] theorem State.setWitness_cfg (driven : Bool) : (s.setWitness driven).cfg = s.cfg := rfl
@[simp] theorem State.setWitness_cfgGood (driven : Bool) : (s.setWitness driven).cfgGood = s.cfgGood := rfl
@[simp] theorem State.setWitness_lines (driven : Bool) : (s.setWitness driven).lines = s.lines := rfl
@[simp] theorem State.setWitness_tracker (driven : Bool) : (s.setWitness driven).tracker = s.tracker := rfl
@[simp] theorem State.setWitness_comps (driven : Bool) : (s.setWitness driven).comps = s.comps := rfl
@[simp] theorem State.setWitness_forecast (driven : Bool) : (s.setWitness driven).forecast = s.forecast := rfl
@[simp] theorem State.setWitness_planner (driven : Bool) : (s.setWitness driven).planner = s.planner := rfl
@[simp] theorem State.setWitness_orders (driven : Bool) : (s.setWitness driven).orders = s.orders := rfl
@[simp] theorem State.setWitness_bus (driven : Bool) :
    (s.setWitness driven).bus =
      { s.bus with witness := driven } := rfl
@[simp] theorem State.setWitness_queue (driven : Bool) : (s.setWitness driven).queue = s.queue := rfl
@[simp] theorem State.setWitness_query (driven : Bool) : (s.setWitness driven).query = s.query := rfl
@[simp] theorem State.setWitness_account (driven : Bool) : (s.setWitness driven).account = s.account := rfl
@[simp] theorem State.setWitness_out (driven : Bool) : (s.setWitness driven).out = s.out := rfl
@[simp] theorem State.setWitness_handed (driven : Bool) : (s.setWitness driven).handed = s.handed := rfl
@[simp] theorem State.setWitness_choices (driven : Bool) : (s.setWitness driven).choices = s.choices := rfl
@[simp] theorem State.setWitness_pending (driven : Bool) : (s.setWitness driven).pending = s.pending := rfl

/-! ### State.setFlag -/

@[simp] theorem State.setFlag_power (slot : Nat) (flag : Bool) : (s.setFlag slot flag).power = s.power := rfl
@[simp] theorem State.setFlag_node (slot : Nat) (flag : Bool) : (s.setFlag slot flag).node = s.node := rfl
@[simp] theorem State.setFlag_resetLine (slot : Nat) (flag : Bool) :
    (s.setFlag slot flag).resetLine =
      s.resetLine := rfl
@[simp] theorem State.setFlag_straps (slot : Nat) (flag : Bool) : (s.setFlag slot flag).straps = s.straps := rfl
@[simp] theorem State.setFlag_pins (slot : Nat) (flag : Bool) : (s.setFlag slot flag).pins = s.pins := rfl
@[simp] theorem State.setFlag_cfg (slot : Nat) (flag : Bool) : (s.setFlag slot flag).cfg = s.cfg := rfl
@[simp] theorem State.setFlag_cfgGood (slot : Nat) (flag : Bool) : (s.setFlag slot flag).cfgGood = s.cfgGood := rfl
@[simp] theorem State.setFlag_lines (slot : Nat) (flag : Bool) : (s.setFlag slot flag).lines = s.lines := rfl
@[simp] theorem State.setFlag_tracker (slot : Nat) (flag : Bool) : (s.setFlag slot flag).tracker = s.tracker := rfl
@[simp] theorem State.setFlag_comps (slot : Nat) (flag : Bool) :
    (s.setFlag slot flag).comps =
      s.comps.set slot { s.comp slot with openOrder := flag } := rfl
@[simp] theorem State.setFlag_forecast (slot : Nat) (flag : Bool) : (s.setFlag slot flag).forecast = s.forecast := rfl
@[simp] theorem State.setFlag_planner (slot : Nat) (flag : Bool) : (s.setFlag slot flag).planner = s.planner := rfl
@[simp] theorem State.setFlag_orders (slot : Nat) (flag : Bool) : (s.setFlag slot flag).orders = s.orders := rfl
@[simp] theorem State.setFlag_bus (slot : Nat) (flag : Bool) : (s.setFlag slot flag).bus = s.bus := rfl
@[simp] theorem State.setFlag_queue (slot : Nat) (flag : Bool) : (s.setFlag slot flag).queue = s.queue := rfl
@[simp] theorem State.setFlag_query (slot : Nat) (flag : Bool) : (s.setFlag slot flag).query = s.query := rfl
@[simp] theorem State.setFlag_account (slot : Nat) (flag : Bool) : (s.setFlag slot flag).account = s.account := rfl
@[simp] theorem State.setFlag_out (slot : Nat) (flag : Bool) : (s.setFlag slot flag).out = s.out := rfl
@[simp] theorem State.setFlag_handed (slot : Nat) (flag : Bool) : (s.setFlag slot flag).handed = s.handed := rfl
@[simp] theorem State.setFlag_choices (slot : Nat) (flag : Bool) : (s.setFlag slot flag).choices = s.choices := rfl
@[simp] theorem State.setFlag_pending (slot : Nat) (flag : Bool) : (s.setFlag slot flag).pending = s.pending := rfl

/-! ### State.appendOrder -/

@[simp] theorem State.appendOrder_power (slot : Nat) : (s.appendOrder slot).power = s.power := rfl
@[simp] theorem State.appendOrder_node (slot : Nat) : (s.appendOrder slot).node = s.node := rfl
@[simp] theorem State.appendOrder_resetLine (slot : Nat) : (s.appendOrder slot).resetLine = s.resetLine := rfl
@[simp] theorem State.appendOrder_straps (slot : Nat) : (s.appendOrder slot).straps = s.straps := rfl
@[simp] theorem State.appendOrder_pins (slot : Nat) : (s.appendOrder slot).pins = s.pins := rfl
@[simp] theorem State.appendOrder_cfg (slot : Nat) : (s.appendOrder slot).cfg = s.cfg := rfl
@[simp] theorem State.appendOrder_cfgGood (slot : Nat) : (s.appendOrder slot).cfgGood = s.cfgGood := rfl
@[simp] theorem State.appendOrder_lines (slot : Nat) : (s.appendOrder slot).lines = s.lines := rfl
@[simp] theorem State.appendOrder_tracker (slot : Nat) : (s.appendOrder slot).tracker = s.tracker := rfl
@[simp] theorem State.appendOrder_forecast (slot : Nat) : (s.appendOrder slot).forecast = s.forecast := rfl
@[simp] theorem State.appendOrder_planner (slot : Nat) : (s.appendOrder slot).planner = s.planner := rfl
@[simp] theorem State.appendOrder_bus (slot : Nat) : (s.appendOrder slot).bus = s.bus := rfl
@[simp] theorem State.appendOrder_queue (slot : Nat) : (s.appendOrder slot).queue = s.queue := rfl
@[simp] theorem State.appendOrder_query (slot : Nat) : (s.appendOrder slot).query = s.query := rfl
@[simp] theorem State.appendOrder_account (slot : Nat) :
    (s.appendOrder slot).account =
      { s.account with nodeMarked := true } := rfl
@[simp] theorem State.appendOrder_out (slot : Nat) : (s.appendOrder slot).out = s.out := rfl
@[simp] theorem State.appendOrder_handed (slot : Nat) : (s.appendOrder slot).handed = s.handed := rfl
@[simp] theorem State.appendOrder_choices (slot : Nat) : (s.appendOrder slot).choices = s.choices := rfl
@[simp] theorem State.appendOrder_pending (slot : Nat) : (s.appendOrder slot).pending = s.pending := rfl

/-! ### State.closeHead -/

@[simp] theorem State.closeHead_power (outcome : OrderStatus) : (s.closeHead outcome).power = s.power := rfl
@[simp] theorem State.closeHead_node (outcome : OrderStatus) : (s.closeHead outcome).node = s.node := rfl
@[simp] theorem State.closeHead_resetLine (outcome : OrderStatus) :
    (s.closeHead outcome).resetLine =
      s.resetLine := rfl
@[simp] theorem State.closeHead_straps (outcome : OrderStatus) : (s.closeHead outcome).straps = s.straps := rfl
@[simp] theorem State.closeHead_pins (outcome : OrderStatus) : (s.closeHead outcome).pins = s.pins := rfl
@[simp] theorem State.closeHead_cfg (outcome : OrderStatus) : (s.closeHead outcome).cfg = s.cfg := rfl
@[simp] theorem State.closeHead_cfgGood (outcome : OrderStatus) : (s.closeHead outcome).cfgGood = s.cfgGood := rfl
@[simp] theorem State.closeHead_lines (outcome : OrderStatus) : (s.closeHead outcome).lines = s.lines := rfl
@[simp] theorem State.closeHead_tracker (outcome : OrderStatus) : (s.closeHead outcome).tracker = s.tracker := rfl
@[simp] theorem State.closeHead_forecast (outcome : OrderStatus) : (s.closeHead outcome).forecast = s.forecast := rfl
@[simp] theorem State.closeHead_planner (outcome : OrderStatus) : (s.closeHead outcome).planner = s.planner := rfl
@[simp] theorem State.closeHead_bus (outcome : OrderStatus) : (s.closeHead outcome).bus = s.bus := rfl
@[simp] theorem State.closeHead_queue (outcome : OrderStatus) : (s.closeHead outcome).queue = s.queue := rfl
@[simp] theorem State.closeHead_query (outcome : OrderStatus) : (s.closeHead outcome).query = s.query := rfl
@[simp] theorem State.closeHead_account (outcome : OrderStatus) :
    (s.closeHead outcome).account =
      { s.account with nodeMarked := true } := rfl
@[simp] theorem State.closeHead_out (outcome : OrderStatus) : (s.closeHead outcome).out = s.out := rfl
@[simp] theorem State.closeHead_handed (outcome : OrderStatus) : (s.closeHead outcome).handed = s.handed := rfl
@[simp] theorem State.closeHead_choices (outcome : OrderStatus) : (s.closeHead outcome).choices = s.choices := rfl
@[simp] theorem State.closeHead_pending (outcome : OrderStatus) : (s.closeHead outcome).pending = s.pending := rfl

/-! ### LineUnit.endHour and LineUnit.run -/

@[simp] theorem LineUnit.endHour_levels (l : LineUnit) : l.endHour.levels = l.levels := rfl
@[simp] theorem LineUnit.endHour_counts (l : LineUnit) : l.endHour.counts = l.counts := rfl
@[simp] theorem LineUnit.endHour_sampleMs (l : LineUnit) : l.endHour.sampleMs = l.sampleMs := rfl
@[simp] theorem LineUnit.endHour_refreshMs (l : LineUnit) : l.endHour.refreshMs = l.refreshMs := rfl
@[simp] theorem LineUnit.endHour_runMs (l : LineUnit) : l.endHour.runMs = 0 := rfl
@[simp] theorem LineUnit.endHour_runHours (l : LineUnit) :
    l.endHour.runHours = satAdd Config.runHoursTop l.runHours 1 := rfl

/-- A millisecond of run time touches the two run-time counters only, and keeps them in their ranges (R12). -/
theorem LineUnit.run_frame {l : LineUnit} (hm : l.runMs < Config.runHourMs) (hh : l.runHours ≤ Config.runHoursTop) :
    l.run = { l with runMs := l.run.runMs, runHours := l.run.runHours } ∧ l.run.runMs < Config.runHourMs ∧
      l.run.runHours ≤ Config.runHoursTop := by
  unfold LineUnit.run
  split
  · exact ⟨rfl, by simp, Nat.min_le_left _ _⟩
  · next h =>
    split
    · next hl =>
      simp only [LineUnit.hourDue, hl, Bool.true_and, decide_eq_true_eq, not_le] at h
      exact ⟨rfl, h, hh⟩
    · exact ⟨rfl, hm, hh⟩

/-! ### State.countHour -/

@[simp] theorem State.countHour_power : s.countHour.power = s.power := rfl
@[simp] theorem State.countHour_node : s.countHour.node = s.node := rfl
@[simp] theorem State.countHour_resetLine : s.countHour.resetLine = s.resetLine := rfl
@[simp] theorem State.countHour_straps : s.countHour.straps = s.straps := rfl
@[simp] theorem State.countHour_pins : s.countHour.pins = s.pins := rfl
@[simp] theorem State.countHour_cfg : s.countHour.cfg = s.cfg := rfl
@[simp] theorem State.countHour_cfgGood : s.countHour.cfgGood = s.cfgGood := rfl
@[simp] theorem State.countHour_lines : s.countHour.lines = s.lines.endHour := rfl
@[simp] theorem State.countHour_tracker : s.countHour.tracker = s.tracker := rfl
@[simp] theorem State.countHour_comps : s.countHour.comps = s.comps := rfl
@[simp] theorem State.countHour_forecast : s.countHour.forecast = s.forecast := rfl
@[simp] theorem State.countHour_planner : s.countHour.planner = s.planner := rfl
@[simp] theorem State.countHour_orders : s.countHour.orders = s.orders := rfl
@[simp] theorem State.countHour_bus : s.countHour.bus = s.bus := rfl
@[simp] theorem State.countHour_queue : s.countHour.queue = s.queue := rfl
@[simp] theorem State.countHour_query : s.countHour.query = s.query := rfl
@[simp] theorem State.countHour_account :
    s.countHour.account = { s.account with nodeMarked := true } := rfl
@[simp] theorem State.countHour_out : s.countHour.out = s.out := rfl
@[simp] theorem State.countHour_handed : s.countHour.handed = s.handed := rfl
@[simp] theorem State.countHour_choices : s.countHour.choices = s.choices := rfl
@[simp] theorem State.countHour_pending : s.countHour.pending = s.pending := rfl

/-! ### State.restartCounts -/

@[simp] theorem State.restartCounts_power : s.restartCounts.power = s.power := rfl
@[simp] theorem State.restartCounts_node : s.restartCounts.node = s.node := rfl
@[simp] theorem State.restartCounts_resetLine : s.restartCounts.resetLine = s.resetLine := rfl
@[simp] theorem State.restartCounts_straps : s.restartCounts.straps = s.straps := rfl
@[simp] theorem State.restartCounts_pins : s.restartCounts.pins = s.pins := rfl
@[simp] theorem State.restartCounts_cfg : s.restartCounts.cfg = s.cfg := rfl
@[simp] theorem State.restartCounts_cfgGood : s.restartCounts.cfgGood = s.cfgGood := rfl
@[simp] theorem State.restartCounts_lines :
    s.restartCounts.lines =
      { s.lines with counts := List.replicate Config.lines 0 } := rfl
@[simp] theorem State.restartCounts_tracker : s.restartCounts.tracker = s.tracker := rfl
@[simp] theorem State.restartCounts_comps : s.restartCounts.comps = s.comps := rfl
@[simp] theorem State.restartCounts_forecast : s.restartCounts.forecast = s.forecast := rfl
@[simp] theorem State.restartCounts_planner : s.restartCounts.planner = s.planner := rfl
@[simp] theorem State.restartCounts_orders : s.restartCounts.orders = s.orders := rfl
@[simp] theorem State.restartCounts_bus : s.restartCounts.bus = s.bus := rfl
@[simp] theorem State.restartCounts_queue : s.restartCounts.queue = s.queue := rfl
@[simp] theorem State.restartCounts_query : s.restartCounts.query = s.query := rfl
@[simp] theorem State.restartCounts_account : s.restartCounts.account = s.account := rfl
@[simp] theorem State.restartCounts_out : s.restartCounts.out = s.out := rfl
@[simp] theorem State.restartCounts_handed : s.restartCounts.handed = s.handed := rfl
@[simp] theorem State.restartCounts_choices : s.restartCounts.choices = s.choices := rfl
@[simp] theorem State.restartCounts_pending : s.restartCounts.pending = s.pending := rfl

/-! ### State.sweepInbound -/

@[simp] theorem State.sweepInbound_power : s.sweepInbound.power = s.power := rfl
@[simp] theorem State.sweepInbound_node : s.sweepInbound.node = s.node := rfl
@[simp] theorem State.sweepInbound_resetLine : s.sweepInbound.resetLine = s.resetLine := rfl
@[simp] theorem State.sweepInbound_straps : s.sweepInbound.straps = s.straps := rfl
@[simp] theorem State.sweepInbound_pins : s.sweepInbound.pins = s.pins := rfl
@[simp] theorem State.sweepInbound_cfg : s.sweepInbound.cfg = s.cfg := rfl
@[simp] theorem State.sweepInbound_cfgGood : s.sweepInbound.cfgGood = s.cfgGood := rfl
@[simp] theorem State.sweepInbound_lines : s.sweepInbound.lines = s.lines := rfl
@[simp] theorem State.sweepInbound_tracker : s.sweepInbound.tracker = s.tracker.sweep s.cfg.tHand := rfl
@[simp] theorem State.sweepInbound_comps : s.sweepInbound.comps = s.comps := rfl
@[simp] theorem State.sweepInbound_forecast : s.sweepInbound.forecast = s.forecast := rfl
@[simp] theorem State.sweepInbound_planner : s.sweepInbound.planner = s.planner := rfl
@[simp] theorem State.sweepInbound_orders : s.sweepInbound.orders = s.orders := rfl
@[simp] theorem State.sweepInbound_bus : s.sweepInbound.bus = s.bus := rfl
@[simp] theorem State.sweepInbound_queue : s.sweepInbound.queue = s.queue := rfl
@[simp] theorem State.sweepInbound_query : s.sweepInbound.query = s.query := rfl
@[simp] theorem State.sweepInbound_account : s.sweepInbound.account = s.account := rfl
@[simp] theorem State.sweepInbound_out : s.sweepInbound.out = s.out := rfl
@[simp] theorem State.sweepInbound_handed : s.sweepInbound.handed = s.handed := rfl
@[simp] theorem State.sweepInbound_choices : s.sweepInbound.choices = s.choices := rfl
@[simp] theorem State.sweepInbound_pending : s.sweepInbound.pending = s.pending := rfl

/-! ### State.stage -/

@[simp] theorem State.stage_power (staging : Configuration) : (s.stage staging).power = s.power := rfl
@[simp] theorem State.stage_node (staging : Configuration) : (s.stage staging).node = s.node := rfl
@[simp] theorem State.stage_resetLine (staging : Configuration) : (s.stage staging).resetLine = s.resetLine := rfl
@[simp] theorem State.stage_straps (staging : Configuration) : (s.stage staging).straps = s.straps := rfl
@[simp] theorem State.stage_pins (staging : Configuration) : (s.stage staging).pins = s.pins := rfl
@[simp] theorem State.stage_cfg (staging : Configuration) : (s.stage staging).cfg = s.cfg := rfl
@[simp] theorem State.stage_cfgGood (staging : Configuration) : (s.stage staging).cfgGood = s.cfgGood := rfl
@[simp] theorem State.stage_lines (staging : Configuration) : (s.stage staging).lines = s.lines := rfl
@[simp] theorem State.stage_tracker (staging : Configuration) : (s.stage staging).tracker = s.tracker := rfl
@[simp] theorem State.stage_comps (staging : Configuration) : (s.stage staging).comps = s.comps := rfl
@[simp] theorem State.stage_forecast (staging : Configuration) : (s.stage staging).forecast = s.forecast := rfl
@[simp] theorem State.stage_planner (staging : Configuration) : (s.stage staging).planner = s.planner := rfl
@[simp] theorem State.stage_orders (staging : Configuration) : (s.stage staging).orders = s.orders := rfl
@[simp] theorem State.stage_bus (staging : Configuration) : (s.stage staging).bus = s.bus := rfl
@[simp] theorem State.stage_queue (staging : Configuration) : (s.stage staging).queue = s.queue := rfl
@[simp] theorem State.stage_query (staging : Configuration) : (s.stage staging).query = s.query := rfl
@[simp] theorem State.stage_account (staging : Configuration) :
    (s.stage staging).account =
      { s.account with staging := staging, stagedItems := satAdd 255 s.account.stagedItems 1 } := rfl
@[simp] theorem State.stage_out (staging : Configuration) : (s.stage staging).out = s.out := rfl
@[simp] theorem State.stage_handed (staging : Configuration) : (s.stage staging).handed = s.handed := rfl
@[simp] theorem State.stage_choices (staging : Configuration) : (s.stage staging).choices = s.choices := rfl
@[simp] theorem State.stage_pending (staging : Configuration) : (s.stage staging).pending = s.pending := rfl

/-! ### State.recordCommit -/

@[simp] theorem State.recordCommit_power (result : Nat) : (s.recordCommit result).power = s.power := rfl
@[simp] theorem State.recordCommit_node (result : Nat) : (s.recordCommit result).node = s.node := rfl
@[simp] theorem State.recordCommit_resetLine (result : Nat) : (s.recordCommit result).resetLine = s.resetLine := rfl
@[simp] theorem State.recordCommit_straps (result : Nat) : (s.recordCommit result).straps = s.straps := rfl
@[simp] theorem State.recordCommit_pins (result : Nat) : (s.recordCommit result).pins = s.pins := rfl
@[simp] theorem State.recordCommit_cfg (result : Nat) : (s.recordCommit result).cfg = s.cfg := rfl
@[simp] theorem State.recordCommit_cfgGood (result : Nat) : (s.recordCommit result).cfgGood = s.cfgGood := rfl
@[simp] theorem State.recordCommit_lines (result : Nat) : (s.recordCommit result).lines = s.lines := rfl
@[simp] theorem State.recordCommit_tracker (result : Nat) : (s.recordCommit result).tracker = s.tracker := rfl
@[simp] theorem State.recordCommit_comps (result : Nat) : (s.recordCommit result).comps = s.comps := rfl
@[simp] theorem State.recordCommit_forecast (result : Nat) : (s.recordCommit result).forecast = s.forecast := rfl
@[simp] theorem State.recordCommit_planner (result : Nat) : (s.recordCommit result).planner = s.planner := rfl
@[simp] theorem State.recordCommit_orders (result : Nat) : (s.recordCommit result).orders = s.orders := rfl
@[simp] theorem State.recordCommit_bus (result : Nat) : (s.recordCommit result).bus = s.bus := rfl
@[simp] theorem State.recordCommit_queue (result : Nat) : (s.recordCommit result).queue = s.queue := rfl
@[simp] theorem State.recordCommit_query (result : Nat) : (s.recordCommit result).query = s.query := rfl
@[simp] theorem State.recordCommit_account (result : Nat) :
    (s.recordCommit result).account =
      { s.account with lastCommit := result } := rfl
@[simp] theorem State.recordCommit_out (result : Nat) : (s.recordCommit result).out = s.out := rfl
@[simp] theorem State.recordCommit_handed (result : Nat) : (s.recordCommit result).handed = s.handed := rfl
@[simp] theorem State.recordCommit_choices (result : Nat) : (s.recordCommit result).choices = s.choices := rfl
@[simp] theorem State.recordCommit_pending (result : Nat) : (s.recordCommit result).pending = s.pending := rfl

/-! ### State.finishWrites -/

@[simp] theorem State.finishWrites_power : s.finishWrites.power = s.power := rfl
@[simp] theorem State.finishWrites_node : s.finishWrites.node = s.node := rfl
@[simp] theorem State.finishWrites_resetLine : s.finishWrites.resetLine = s.resetLine := rfl
@[simp] theorem State.finishWrites_straps : s.finishWrites.straps = s.straps := rfl
@[simp] theorem State.finishWrites_pins : s.finishWrites.pins = s.pins := rfl
@[simp] theorem State.finishWrites_cfg : s.finishWrites.cfg = s.cfg := rfl
@[simp] theorem State.finishWrites_cfgGood : s.finishWrites.cfgGood = s.cfgGood := rfl
@[simp] theorem State.finishWrites_lines : s.finishWrites.lines = s.lines := rfl
@[simp] theorem State.finishWrites_tracker : s.finishWrites.tracker = s.tracker := rfl
@[simp] theorem State.finishWrites_comps : s.finishWrites.comps = s.comps := rfl
@[simp] theorem State.finishWrites_forecast : s.finishWrites.forecast = s.forecast := rfl
@[simp] theorem State.finishWrites_planner : s.finishWrites.planner = s.planner := rfl
@[simp] theorem State.finishWrites_orders : s.finishWrites.orders = s.orders := rfl
@[simp] theorem State.finishWrites_bus : s.finishWrites.bus = s.bus := rfl
@[simp] theorem State.finishWrites_queue : s.finishWrites.queue = s.queue := rfl
@[simp] theorem State.finishWrites_query : s.finishWrites.query = s.query := rfl
@[simp] theorem State.finishWrites_account :
    s.finishWrites.account =
      { s.account with records := s.account.records.writeAll s.account.writes, writes := [] } := rfl
@[simp] theorem State.finishWrites_out : s.finishWrites.out = s.out := rfl
@[simp] theorem State.finishWrites_handed : s.finishWrites.handed = s.handed := rfl
@[simp] theorem State.finishWrites_choices : s.finishWrites.choices = s.choices := rfl
@[simp] theorem State.finishWrites_pending : s.finishWrites.pending = s.pending := rfl

/-! ### State.setDue -/

@[simp] theorem State.setDue_power (due : List RecordName) : (s.setDue due).power = s.power := rfl
@[simp] theorem State.setDue_node (due : List RecordName) : (s.setDue due).node = s.node := rfl
@[simp] theorem State.setDue_resetLine (due : List RecordName) : (s.setDue due).resetLine = s.resetLine := rfl
@[simp] theorem State.setDue_straps (due : List RecordName) : (s.setDue due).straps = s.straps := rfl
@[simp] theorem State.setDue_pins (due : List RecordName) : (s.setDue due).pins = s.pins := rfl
@[simp] theorem State.setDue_cfg (due : List RecordName) : (s.setDue due).cfg = s.cfg := rfl
@[simp] theorem State.setDue_cfgGood (due : List RecordName) : (s.setDue due).cfgGood = s.cfgGood := rfl
@[simp] theorem State.setDue_lines (due : List RecordName) : (s.setDue due).lines = s.lines := rfl
@[simp] theorem State.setDue_tracker (due : List RecordName) : (s.setDue due).tracker = s.tracker := rfl
@[simp] theorem State.setDue_comps (due : List RecordName) : (s.setDue due).comps = s.comps := rfl
@[simp] theorem State.setDue_forecast (due : List RecordName) : (s.setDue due).forecast = s.forecast := rfl
@[simp] theorem State.setDue_planner (due : List RecordName) : (s.setDue due).planner = s.planner := rfl
@[simp] theorem State.setDue_orders (due : List RecordName) : (s.setDue due).orders = s.orders := rfl
@[simp] theorem State.setDue_bus (due : List RecordName) : (s.setDue due).bus = s.bus := rfl
@[simp] theorem State.setDue_queue (due : List RecordName) : (s.setDue due).queue = s.queue := rfl
@[simp] theorem State.setDue_query (due : List RecordName) : (s.setDue due).query = s.query := rfl
@[simp] theorem State.setDue_account (due : List RecordName) :
    (s.setDue due).account = { s.account with due := due } := rfl
@[simp] theorem State.setDue_out (due : List RecordName) : (s.setDue due).out = s.out := rfl
@[simp] theorem State.setDue_handed (due : List RecordName) : (s.setDue due).handed = s.handed := rfl
@[simp] theorem State.setDue_choices (due : List RecordName) : (s.setDue due).choices = s.choices := rfl
@[simp] theorem State.setDue_pending (due : List RecordName) : (s.setDue due).pending = s.pending := rfl

/-! ### State.countChoice -/

@[simp] theorem State.countChoice_power : s.countChoice.power = s.power := rfl
@[simp] theorem State.countChoice_node : s.countChoice.node = s.node := rfl
@[simp] theorem State.countChoice_resetLine : s.countChoice.resetLine = s.resetLine := rfl
@[simp] theorem State.countChoice_straps : s.countChoice.straps = s.straps := rfl
@[simp] theorem State.countChoice_pins : s.countChoice.pins = s.pins := rfl
@[simp] theorem State.countChoice_cfg : s.countChoice.cfg = s.cfg := rfl
@[simp] theorem State.countChoice_cfgGood : s.countChoice.cfgGood = s.cfgGood := rfl
@[simp] theorem State.countChoice_lines : s.countChoice.lines = s.lines := rfl
@[simp] theorem State.countChoice_tracker : s.countChoice.tracker = s.tracker := rfl
@[simp] theorem State.countChoice_comps : s.countChoice.comps = s.comps := rfl
@[simp] theorem State.countChoice_forecast : s.countChoice.forecast = s.forecast := rfl
@[simp] theorem State.countChoice_planner : s.countChoice.planner = s.planner := rfl
@[simp] theorem State.countChoice_orders : s.countChoice.orders = s.orders := rfl
@[simp] theorem State.countChoice_bus : s.countChoice.bus = s.bus := rfl
@[simp] theorem State.countChoice_queue : s.countChoice.queue = s.queue := rfl
@[simp] theorem State.countChoice_query : s.countChoice.query = s.query := rfl
@[simp] theorem State.countChoice_account : s.countChoice.account = s.account := rfl
@[simp] theorem State.countChoice_out : s.countChoice.out = s.out := rfl
@[simp] theorem State.countChoice_handed : s.countChoice.handed = s.handed := rfl
@[simp] theorem State.countChoice_choices : s.countChoice.choices = s.choices + 1 := rfl
@[simp] theorem State.countChoice_pending : s.countChoice.pending = s.pending := rfl

/-! ### State.hearPassage -/

@[simp] theorem State.hearPassage_power (source : Addr) (tag : Tag) (thickness mass : PieceClass) :
    (s.hearPassage source tag thickness mass).power = s.power := rfl
@[simp] theorem State.hearPassage_node (source : Addr) (tag : Tag) (thickness mass : PieceClass) :
    (s.hearPassage source tag thickness mass).node = s.node := rfl
@[simp] theorem State.hearPassage_resetLine (source : Addr) (tag : Tag) (thickness mass : PieceClass) :
    (s.hearPassage source tag thickness mass).resetLine = s.resetLine := rfl
@[simp] theorem State.hearPassage_straps (source : Addr) (tag : Tag) (thickness mass : PieceClass) :
    (s.hearPassage source tag thickness mass).straps = s.straps := rfl
@[simp] theorem State.hearPassage_pins (source : Addr) (tag : Tag) (thickness mass : PieceClass) :
    (s.hearPassage source tag thickness mass).pins = s.pins := rfl
@[simp] theorem State.hearPassage_cfg (source : Addr) (tag : Tag) (thickness mass : PieceClass) :
    (s.hearPassage source tag thickness mass).cfg = s.cfg := rfl
@[simp] theorem State.hearPassage_cfgGood (source : Addr) (tag : Tag) (thickness mass : PieceClass) :
    (s.hearPassage source tag thickness mass).cfgGood = s.cfgGood := rfl
@[simp] theorem State.hearPassage_lines (source : Addr) (tag : Tag) (thickness mass : PieceClass) :
    (s.hearPassage source tag thickness mass).lines = s.lines := rfl
@[simp] theorem State.hearPassage_tracker (source : Addr) (tag : Tag) (thickness mass : PieceClass) :
    (s.hearPassage source tag thickness mass).tracker =
      s.tracker.append { source := source, tag := tag, thickness := thickness, mass := mass, age := 0 } := rfl
@[simp] theorem State.hearPassage_comps (source : Addr) (tag : Tag) (thickness mass : PieceClass) :
    (s.hearPassage source tag thickness mass).comps = s.comps := rfl
@[simp] theorem State.hearPassage_forecast (source : Addr) (tag : Tag) (thickness mass : PieceClass) :
    (s.hearPassage source tag thickness mass).forecast = s.forecast := rfl
@[simp] theorem State.hearPassage_planner (source : Addr) (tag : Tag) (thickness mass : PieceClass) :
    (s.hearPassage source tag thickness mass).planner = s.planner := rfl
@[simp] theorem State.hearPassage_orders (source : Addr) (tag : Tag) (thickness mass : PieceClass) :
    (s.hearPassage source tag thickness mass).orders = s.orders := rfl
@[simp] theorem State.hearPassage_bus (source : Addr) (tag : Tag) (thickness mass : PieceClass) :
    (s.hearPassage source tag thickness mass).bus = s.bus := rfl
@[simp] theorem State.hearPassage_queue (source : Addr) (tag : Tag) (thickness mass : PieceClass) :
    (s.hearPassage source tag thickness mass).queue = s.queue := rfl
@[simp] theorem State.hearPassage_query (source : Addr) (tag : Tag) (thickness mass : PieceClass) :
    (s.hearPassage source tag thickness mass).query = s.query := rfl
@[simp] theorem State.hearPassage_account (source : Addr) (tag : Tag) (thickness mass : PieceClass) :
    (s.hearPassage source tag thickness mass).account = s.account := rfl
@[simp] theorem State.hearPassage_out (source : Addr) (tag : Tag) (thickness mass : PieceClass) :
    (s.hearPassage source tag thickness mass).out = s.out := rfl
@[simp] theorem State.hearPassage_handed (source : Addr) (tag : Tag) (thickness mass : PieceClass) :
    (s.hearPassage source tag thickness mass).handed = s.handed := rfl
@[simp] theorem State.hearPassage_choices (source : Addr) (tag : Tag) (thickness mass : PieceClass) :
    (s.hearPassage source tag thickness mass).choices = s.choices := rfl
@[simp] theorem State.hearPassage_pending (source : Addr) (tag : Tag) (thickness mass : PieceClass) :
    (s.hearPassage source tag thickness mass).pending = s.pending := rfl

/-! ### State.hearJam -/

@[simp] theorem State.hearJam_power (source : Addr) : (s.hearJam source).power = s.power := rfl
@[simp] theorem State.hearJam_node (source : Addr) : (s.hearJam source).node = s.node := rfl
@[simp] theorem State.hearJam_resetLine (source : Addr) : (s.hearJam source).resetLine = s.resetLine := rfl
@[simp] theorem State.hearJam_straps (source : Addr) : (s.hearJam source).straps = s.straps := rfl
@[simp] theorem State.hearJam_pins (source : Addr) : (s.hearJam source).pins = s.pins := rfl
@[simp] theorem State.hearJam_cfg (source : Addr) : (s.hearJam source).cfg = s.cfg := rfl
@[simp] theorem State.hearJam_cfgGood (source : Addr) : (s.hearJam source).cfgGood = s.cfgGood := rfl
@[simp] theorem State.hearJam_lines (source : Addr) : (s.hearJam source).lines = s.lines := rfl
@[simp] theorem State.hearJam_tracker (source : Addr) :
    (s.hearJam source).tracker =
      { s.tracker with inbound := s.tracker.inbound.filter fun e => e.source != source } := rfl
@[simp] theorem State.hearJam_comps (source : Addr) : (s.hearJam source).comps = s.comps := rfl
@[simp] theorem State.hearJam_forecast (source : Addr) : (s.hearJam source).forecast = s.forecast := rfl
@[simp] theorem State.hearJam_planner (source : Addr) : (s.hearJam source).planner = s.planner := rfl
@[simp] theorem State.hearJam_orders (source : Addr) : (s.hearJam source).orders = s.orders := rfl
@[simp] theorem State.hearJam_bus (source : Addr) : (s.hearJam source).bus = s.bus := rfl
@[simp] theorem State.hearJam_queue (source : Addr) : (s.hearJam source).queue = s.queue := rfl
@[simp] theorem State.hearJam_query (source : Addr) : (s.hearJam source).query = s.query := rfl
@[simp] theorem State.hearJam_account (source : Addr) : (s.hearJam source).account = s.account := rfl
@[simp] theorem State.hearJam_out (source : Addr) : (s.hearJam source).out = s.out := rfl
@[simp] theorem State.hearJam_handed (source : Addr) : (s.hearJam source).handed = s.handed := rfl
@[simp] theorem State.hearJam_choices (source : Addr) : (s.hearJam source).choices = s.choices := rfl
@[simp] theorem State.hearJam_pending (source : Addr) : (s.hearJam source).pending = s.pending := rfl

/-! ### State.writeRecord and State.writeRecords -/

@[simp] theorem State.writeRecord_power (name : RecordName) :
    (s.writeRecord name).power = s.power := by cases name <;> rfl
@[simp] theorem State.writeRecord_node (name : RecordName) : (s.writeRecord name).node = s.node := by cases name <;> rfl
@[simp] theorem State.writeRecord_resetLine (name : RecordName) :
    (s.writeRecord name).resetLine = s.resetLine := by cases name <;> rfl
@[simp] theorem State.writeRecord_straps (name : RecordName) :
    (s.writeRecord name).straps = s.straps := by cases name <;> rfl
@[simp] theorem State.writeRecord_pins (name : RecordName) : (s.writeRecord name).pins = s.pins := by cases name <;> rfl
@[simp] theorem State.writeRecord_cfg (name : RecordName) : (s.writeRecord name).cfg = s.cfg := by cases name <;> rfl
@[simp] theorem State.writeRecord_cfgGood (name : RecordName) :
    (s.writeRecord name).cfgGood = s.cfgGood := by cases name <;> rfl
@[simp] theorem State.writeRecord_lines (name : RecordName) :
    (s.writeRecord name).lines = s.lines := by cases name <;> rfl
@[simp] theorem State.writeRecord_tracker (name : RecordName) :
    (s.writeRecord name).tracker = s.tracker := by cases name <;> rfl
@[simp] theorem State.writeRecord_forecast (name : RecordName) :
    (s.writeRecord name).forecast = s.forecast := by cases name <;> rfl
@[simp] theorem State.writeRecord_planner (name : RecordName) :
    (s.writeRecord name).planner = s.planner := by cases name <;> rfl
@[simp] theorem State.writeRecord_bus (name : RecordName) : (s.writeRecord name).bus = s.bus := by cases name <;> rfl
@[simp] theorem State.writeRecord_queue (name : RecordName) :
    (s.writeRecord name).queue = s.queue := by cases name <;> rfl
@[simp] theorem State.writeRecord_query (name : RecordName) :
    (s.writeRecord name).query = s.query := by cases name <;> rfl
@[simp] theorem State.writeRecord_out (name : RecordName) : (s.writeRecord name).out = s.out := by cases name <;> rfl
@[simp] theorem State.writeRecord_handed (name : RecordName) :
    (s.writeRecord name).handed = s.handed := by cases name <;> rfl
@[simp] theorem State.writeRecord_choices (name : RecordName) :
    (s.writeRecord name).choices = s.choices := by cases name <;> rfl
@[simp] theorem State.writeRecord_pending (name : RecordName) :
    (s.writeRecord name).pending = s.pending := by cases name <;> rfl

/-- Writing several records leaves everything but the table, the order list and the store. -/
theorem State.writeRecords_frame (names : List RecordName) :
    s.writeRecords names =
      { s with
        comps := (s.writeRecords names).comps
        orders := (s.writeRecords names).orders
        account := (s.writeRecords names).account } := by
  induction names generalizing s with
  | nil => rfl
  | cons name names ih =>
    rw [State.writeRecords, ih (s.writeRecord name)]
    simp

@[simp] theorem State.writeRecords_power (names : List RecordName) :
    (s.writeRecords names).power = s.power := by rw [s.writeRecords_frame]
@[simp] theorem State.writeRecords_node (names : List RecordName) :
    (s.writeRecords names).node = s.node := by rw [s.writeRecords_frame]
@[simp] theorem State.writeRecords_resetLine (names : List RecordName) :
    (s.writeRecords names).resetLine = s.resetLine := by rw [s.writeRecords_frame]
@[simp] theorem State.writeRecords_straps (names : List RecordName) :
    (s.writeRecords names).straps = s.straps := by rw [s.writeRecords_frame]
@[simp] theorem State.writeRecords_pins (names : List RecordName) :
    (s.writeRecords names).pins = s.pins := by rw [s.writeRecords_frame]
@[simp] theorem State.writeRecords_cfg (names : List RecordName) :
    (s.writeRecords names).cfg = s.cfg := by rw [s.writeRecords_frame]
@[simp] theorem State.writeRecords_cfgGood (names : List RecordName) :
    (s.writeRecords names).cfgGood = s.cfgGood := by rw [s.writeRecords_frame]
@[simp] theorem State.writeRecords_lines (names : List RecordName) :
    (s.writeRecords names).lines = s.lines := by rw [s.writeRecords_frame]
@[simp] theorem State.writeRecords_tracker (names : List RecordName) :
    (s.writeRecords names).tracker = s.tracker := by rw [s.writeRecords_frame]
@[simp] theorem State.writeRecords_forecast (names : List RecordName) :
    (s.writeRecords names).forecast = s.forecast := by rw [s.writeRecords_frame]
@[simp] theorem State.writeRecords_planner (names : List RecordName) :
    (s.writeRecords names).planner = s.planner := by rw [s.writeRecords_frame]
@[simp] theorem State.writeRecords_bus (names : List RecordName) :
    (s.writeRecords names).bus = s.bus := by rw [s.writeRecords_frame]
@[simp] theorem State.writeRecords_queue (names : List RecordName) :
    (s.writeRecords names).queue = s.queue := by rw [s.writeRecords_frame]
@[simp] theorem State.writeRecords_query (names : List RecordName) :
    (s.writeRecords names).query = s.query := by rw [s.writeRecords_frame]
@[simp] theorem State.writeRecords_out (names : List RecordName) :
    (s.writeRecords names).out = s.out := by rw [s.writeRecords_frame]
@[simp] theorem State.writeRecords_handed (names : List RecordName) :
    (s.writeRecords names).handed = s.handed := by rw [s.writeRecords_frame]
@[simp] theorem State.writeRecords_choices (names : List RecordName) :
    (s.writeRecords names).choices = s.choices := by rw [s.writeRecords_frame]
@[simp] theorem State.writeRecords_pending (names : List RecordName) :
    (s.writeRecords names).pending = s.pending := by rw [s.writeRecords_frame]

/-! ### State.withPending -/

@[simp] theorem State.withPending_power (pending : List Instr) : (s.withPending pending).power = s.power := rfl
@[simp] theorem State.withPending_node (pending : List Instr) : (s.withPending pending).node = s.node := rfl
@[simp] theorem State.withPending_resetLine (pending : List Instr) :
    (s.withPending pending).resetLine =
      s.resetLine := rfl
@[simp] theorem State.withPending_straps (pending : List Instr) : (s.withPending pending).straps = s.straps := rfl
@[simp] theorem State.withPending_pins (pending : List Instr) : (s.withPending pending).pins = s.pins := rfl
@[simp] theorem State.withPending_cfg (pending : List Instr) : (s.withPending pending).cfg = s.cfg := rfl
@[simp] theorem State.withPending_cfgGood (pending : List Instr) : (s.withPending pending).cfgGood = s.cfgGood := rfl
@[simp] theorem State.withPending_lines (pending : List Instr) : (s.withPending pending).lines = s.lines := rfl
@[simp] theorem State.withPending_tracker (pending : List Instr) : (s.withPending pending).tracker = s.tracker := rfl
@[simp] theorem State.withPending_comps (pending : List Instr) : (s.withPending pending).comps = s.comps := rfl
@[simp] theorem State.withPending_forecast (pending : List Instr) :
    (s.withPending pending).forecast =
      s.forecast := rfl
@[simp] theorem State.withPending_planner (pending : List Instr) : (s.withPending pending).planner = s.planner := rfl
@[simp] theorem State.withPending_orders (pending : List Instr) : (s.withPending pending).orders = s.orders := rfl
@[simp] theorem State.withPending_bus (pending : List Instr) : (s.withPending pending).bus = s.bus := rfl
@[simp] theorem State.withPending_queue (pending : List Instr) : (s.withPending pending).queue = s.queue := rfl
@[simp] theorem State.withPending_query (pending : List Instr) : (s.withPending pending).query = s.query := rfl
@[simp] theorem State.withPending_account (pending : List Instr) : (s.withPending pending).account = s.account := rfl
@[simp] theorem State.withPending_out (pending : List Instr) : (s.withPending pending).out = s.out := rfl
@[simp] theorem State.withPending_handed (pending : List Instr) : (s.withPending pending).handed = s.handed := rfl
@[simp] theorem State.withPending_choices (pending : List Instr) : (s.withPending pending).choices = s.choices := rfl
@[simp] theorem State.withPending_pending (pending : List Instr) : (s.withPending pending).pending = pending := rfl

end Sys2Proof.Machine
end

