-- ==== Sys2Proof/Laws/Exec.lean ====
section
/-! SUPPORT. Every command answers a next state, and what the answers share. -/

namespace Sys2Proof.Machine

open Sys2Proof

/-- Following the state changes the outputs only. -/
theorem State.settle_eq (s : State) : s.settle = { s with out := s.settle.out } := rfl

/-- Some present component has wear at least a limit, in words. -/
theorem anyWearAtLeast_iff (limit : Nat) (slots : List SlotConfig) (comps : List Component) :
    anyWearAtLeast limit slots comps = true ↔
      ∃ p ∈ slots.zip comps, p.1.present = true ∧ limit ≤ p.2.wear := by
  induction slots generalizing comps with
  | nil => simp [anyWearAtLeast]
  | cons sl slots ih =>
    cases comps with
    | nil => simp [anyWearAtLeast]
    | cons c comps => simp [anyWearAtLeast, ih]

/-- The outputs follow. -/
theorem State.settle_output (s : State) : OutputLaw s.settle := by
  refine ⟨?_, ?_⟩
  · change lampOf s = _
    simp only [lampOf, State.silenced, beq_iff_eq, State.settle_resetLine, State.settle_node, State.settle_bus,
      State.settle_planner, State.settle_orders]
    congr
  · change holdOf s = true ↔ _
    simp [holdOf, State.operating, anyWearAtLeast_iff]

/-- No command faults or is refused: each answers a next state. -/
theorem exec_next (command : Instr) (s : State) : ∃ t, exec command s = .next t := by
  cases command
  all_goals
    simp only [exec, execPowerOn, execResetFall, execResetRise, execStartComplete, execPulseCounted, execArrival,
      execDeparture, execEyeClear, execMotorStart, execMotorStop, execMaintRise, execMaintFall, execConfirm, execDecline,
      execSamplePeriodEnd, execCheckpoint, execClaimRefresh, execRunHourBoundary, execTransitJam, execBlockedJam,
      execClearHoldComplete, execPieceCredit, execDistanceCredit, execStartSurcharge, execJamSurcharge, execReplace,
      execPendingHoldExpiry, execClaimEntryAgeOut, execMuteEnd, execBusIdle, execFrameStart, execFrameJoin,
      execArbitrationLost, execFrameAbort, execFrameComplete, execFrameReceived, execPassageReceived, execJamReceived,
      execTakenHeard, execClaimReceived, execWithdrawReceived, execQueryIdentity, execQuerySection, execQueryCounts,
      execQueryComponent, execQueryOrder, execQueryList, execQueryCommission, queryCommand, execLineA, execLineB,
      execLineC, execFactors, execUpstream, execInput, execSlot, execSlotB, execClear, execLabel, execCommit,
      configCommand, execCommitWritesDone, execPowerLoss, execBusBusy, done]
    repeat' split
    all_goals exact ⟨_, rfl⟩

/-- Every step answers a next state. -/
theorem step_next (s : State) : ∃ t, step s = .next t := by
  unfold step
  split
  · exact exec_next _ _
  · exact ⟨_, rfl⟩

end Sys2Proof.Machine
end

