-- ==== Sys2Proof/Laws/Frame.lean ====
section
/-! SUPPORT. What the bits of a frame do: numbers written as bits and read back, and the lengths of the parts. -/

namespace Sys2Proof.Machine

open Sys2Proof

@[simp] theorem bitsOf_length (width value : Nat) : (bitsOf width value).length = width := by
  induction width with
  | zero => rfl
  | succ width ih => simp [bitsOf, ih]

/-- Reading bits after a number already read. -/
theorem ofBits_append (front back : List Bool) :
    ofBits (front ++ back) = ofBits front * 2 ^ back.length + ofBits back := by
  have key : ∀ (bits : List Bool) (value : Nat),
      bits.foldl (fun value bit => 2 * value + bit.toNat) value = value * 2 ^ bits.length + ofBits bits := by
    intro bits
    induction bits with
    | nil => intro value; simp [ofBits]
    | cons bit bits ih =>
      intro value
      simp only [List.foldl_cons, List.length_cons, ofBits]
      rw [ih, ih]
      rw [Nat.pow_succ, Nat.add_mul]
      simp only [Nat.mul_zero, Nat.zero_add]
      rw [Nat.add_assoc, Nat.mul_comm 2 value, Nat.mul_assoc, Nat.mul_comm 2]
  unfold ofBits
  rw [List.foldl_append, key]
  rfl

/-- A number written as bits reads back as its low bits. -/
theorem ofBits_bitsOf (width value : Nat) : ofBits (bitsOf width value) = value % 2 ^ width := by
  induction width with
  | zero => simp [bitsOf, ofBits, Nat.mod_one]
  | succ width ih =>
    have h := ofBits_append [value.testBit width] (bitsOf width value)
    simp only [List.singleton_append, bitsOf_length, ih] at h
    rw [bitsOf, h, Nat.mod_pow_succ, Nat.testBit_eq_decide_div_mod_eq, Nat.add_comm]
    congr 1
    rcases Nat.mod_two_eq_zero_or_one (value / 2 ^ width) with e | e <;> simp [ofBits, e]

theorem ofBits_lt (bits : List Bool) : ofBits bits < 2 ^ bits.length := by
  induction bits with
  | nil => simp [ofBits]
  | cons bit bits ih =>
    have h := ofBits_append [bit] bits
    simp only [List.singleton_append] at h
    rw [h, List.length_cons, Nat.pow_succ]
    have hb : ofBits [bit] ≤ 1 := by cases bit <;> decide
    have hm : ofBits [bit] * 2 ^ bits.length ≤ 1 * 2 ^ bits.length := Nat.mul_le_mul_right _ hb
    omega

/-- A number of its width, taken off the front of the cells. -/
theorem takeBits_bitsOf (width value : Nat) (rest : List Bool) :
    takeBits width (bitsOf width value ++ rest) = some (value % 2 ^ width, rest) := by
  simp [takeBits, ofBits_bitsOf]

/-- Cells that run out. -/
theorem takeBits_short {width : Nat} {cells : List Bool} (h : cells.length < width) : takeBits width cells = none := by
  simp [takeBits, Nat.not_le.2 h]

@[simp] theorem payloadBits_length (payload : List Byte) : (payloadBits payload).length = 8 * payload.length := by
  induction payload with
  | nil => rfl
  | cons byte payload ih =>
    simp only [payloadBits, List.length_append, bitsOf_length, ih, List.length_cons]
    omega

/-- The bytes of a payload, taken off the front of the cells. -/
theorem takeBytes_payloadBits (payload : List Byte) (rest : List Bool) :
    takeBytes payload.length (payloadBits payload ++ rest) = some (payload, rest) := by
  induction payload with
  | nil => rfl
  | cons byte payload ih =>
    have hb : byte.toNat % 2 ^ 8 = byte.toNat := Nat.mod_eq_of_lt byte.isLt
    simp only [List.length_cons, takeBytes, payloadBits, List.append_assoc, takeBits_bitsOf, ih, hb]
    simp

@[simp] theorem coveredBits_length (cls priority : Nat) (source dest : Addr) (payload : List Byte) :
    (coveredBits cls priority source dest payload).length = 27 + 8 * payload.length := by
  simp only [coveredBits, List.length_append, bitsOf_length, payloadBits_length]

/-- A frame has 44 cells and 8 for each payload byte. -/
@[simp] theorem frameCells_length (cls priority : Nat) (source dest : Addr) (payload : List Byte) :
    (frameCells cls priority source dest payload).length = 44 + 8 * payload.length := by
  simp only [frameCells, List.length_cons, List.length_append, bitsOf_length, coveredBits_length]
  omega

end Sys2Proof.Machine
end

