-- ==== Sys2Proof/Laws/Queue.lean ====
section
/-! SUPPORT. What the operations of the transmit queue do: the place at which a notice joins, and what handing a
notice over can change. -/

namespace Sys2Proof.Machine

open Sys2Proof

/-! ### Joining and returning -/

/-- Where a joining notice goes: after every notice of lower or equal header, up to the first of higher header. -/
theorem joinAfter_split (addr : Addr) (n : Notice) (l : List Notice) :
    ∃ before after, l = before ++ after ∧ joinAfter addr n l = before ++ n :: after ∧
      (∀ m ∈ before, m.header addr ≤ n.header addr) ∧
      ∀ m ∈ after.head?, n.header addr < m.header addr := by
  induction l with
  | nil => exact ⟨[], [], by simp [joinAfter]⟩
  | cons m ms ih =>
    by_cases h : n.header addr < m.header addr
    · exact ⟨[], m :: ms, by simp [joinAfter, h]⟩
    · obtain ⟨before, after, rfl, hj, hb, ha⟩ := ih
      refine ⟨m :: before, after, rfl, by simp [joinAfter, h, hj], ?_, ha⟩
      simp only [List.mem_cons, forall_eq_or_imp]
      exact ⟨by omega, hb⟩

/-- Where a returning notice goes: after every notice of lower header, up to the first of equal or higher header. -/
theorem rejoin_split (addr : Addr) (n : Notice) (l : List Notice) :
    ∃ before after, l = before ++ after ∧ rejoin addr n l = before ++ n :: after ∧
      (∀ m ∈ before, m.header addr < n.header addr) ∧
      ∀ m ∈ after.head?, n.header addr ≤ m.header addr := by
  induction l with
  | nil => exact ⟨[], [], by simp [rejoin]⟩
  | cons m ms ih =>
    by_cases h : n.header addr ≤ m.header addr
    · exact ⟨[], m :: ms, by simp [rejoin, h]⟩
    · obtain ⟨before, after, rfl, hj, hb, ha⟩ := ih
      refine ⟨m :: before, after, rfl, by simp [rejoin, h, hj], ?_, ha⟩
      simp only [List.mem_cons, forall_eq_or_imp]
      exact ⟨by omega, hb⟩

/-- The queue's order: ascending by header. -/
abbrev Ascending (addr : Addr) (l : List Notice) : Prop := l.Pairwise fun a b => a.header addr ≤ b.header addr

/-- In an ascending list, what is no smaller than a bound at its head is so throughout. -/
theorem Ascending.from_head {addr : Addr} {bound : Nat} {l : List Notice} (h : Ascending addr l)
    (hh : ∀ m ∈ l.head?, bound ≤ m.header addr) : ∀ m ∈ l, bound ≤ m.header addr := by
  cases l with
  | nil => simp
  | cons x xs =>
    have hx : bound ≤ x.header addr := hh x (by simp)
    intro m hm
    rcases List.mem_cons.1 hm with rfl | hm
    · exact hx
    · exact Nat.le_trans hx ((List.pairwise_cons.1 h).1 m hm)

theorem joinAfter_perm (addr : Addr) (n : Notice) (l : List Notice) : (joinAfter addr n l).Perm (n :: l) := by
  obtain ⟨before, after, rfl, hj, -, -⟩ := joinAfter_split addr n l
  rw [hj]
  exact List.perm_middle

theorem rejoin_perm (addr : Addr) (n : Notice) (l : List Notice) : (rejoin addr n l).Perm (n :: l) := by
  obtain ⟨before, after, rfl, hj, -, -⟩ := rejoin_split addr n l
  rw [hj]
  exact List.perm_middle

@[simp] theorem joinAfter_length (addr : Addr) (n : Notice) (l : List Notice) :
    (joinAfter addr n l).length = l.length + 1 := (joinAfter_perm addr n l).length_eq

@[simp] theorem rejoin_length (addr : Addr) (n : Notice) (l : List Notice) :
    (rejoin addr n l).length = l.length + 1 := (rejoin_perm addr n l).length_eq

@[simp] theorem joinAfter_countP (addr : Addr) (n : Notice) (l : List Notice) (p : Notice → Bool) :
    (joinAfter addr n l).countP p = l.countP p + if p n = true then 1 else 0 := by
  rw [(joinAfter_perm addr n l).countP_eq, List.countP_cons]

@[simp] theorem rejoin_countP (addr : Addr) (n : Notice) (l : List Notice) (p : Notice → Bool) :
    (rejoin addr n l).countP p = l.countP p + if p n = true then 1 else 0 := by
  rw [(rejoin_perm addr n l).countP_eq, List.countP_cons]

/-- Put a notice between the two parts of an ascending list. -/
theorem Ascending.put {addr : Addr} {n : Notice} {before after : List Notice}
    (h : Ascending addr (before ++ after)) (hb : ∀ m ∈ before, m.header addr ≤ n.header addr)
    (ha : ∀ m ∈ after, n.header addr ≤ m.header addr) : Ascending addr (before ++ n :: after) := by
  rw [Ascending, List.pairwise_append] at h ⊢
  refine ⟨h.1, List.pairwise_cons.2 ⟨ha, h.2.1⟩, ?_⟩
  intro a hm b hb'
  rcases List.mem_cons.1 hb' with rfl | hb'
  · exact hb a hm
  · exact h.2.2 a hm b hb'

theorem joinAfter_ascending {addr : Addr} {n : Notice} {l : List Notice} (h : Ascending addr l) :
    Ascending addr (joinAfter addr n l) := by
  obtain ⟨before, after, rfl, hj, hb, ha⟩ := joinAfter_split addr n l
  rw [hj]
  refine h.put hb ?_
  exact Ascending.from_head (List.pairwise_append.1 h).2.1 fun m hm => Nat.le_of_lt (ha m hm)

theorem rejoin_ascending {addr : Addr} {n : Notice} {l : List Notice} (h : Ascending addr l) :
    Ascending addr (rejoin addr n l) := by
  obtain ⟨before, after, rfl, hj, hb, ha⟩ := rejoin_split addr n l
  rw [hj]
  refine h.put (fun m hm => Nat.le_of_lt (hb m hm)) ?_
  exact Ascending.from_head (List.pairwise_append.1 h).2.1 ha

/-! ### Handing a notice over -/

/-- What is told of a lost notice: an owed TAKEN in CONTENDING, and the end of a pending query. -/
theorem State.tellLost_eq (s : State) (n : Notice) :
    s.tellLost n =
      { s with
        planner :=
          { s.planner with
            takenOwed :=
              s.planner.takenOwed || (n.body.isTaken && decide (s.planner.window = .contending)) }
        query := if n.body.isReport = true then none else s.query } := by
  obtain ⟨priority, body⟩ := n
  cases body <;> simp only [State.tellLost, NoticeBody.isTaken, NoticeBody.isReport] <;> simp
  split <;> simp_all

/-- The transmit queue, the planner and the pending query of one state, and everything else of another. -/
def State.overlay (u s : State) : State := { u with planner := s.planner, queue := s.queue, query := s.query }

/-- With room a notice joins. -/
theorem State.offerPlain_room {s : State} {n : Notice} (h : s.queued < Config.queuePlaces) :
    s.offerPlain n = s.joinQueue n := by
  rw [State.offerPlain, if_pos h]

/-- At a full queue a notice of lower header evicts the last entry that is not in transmission. -/
theorem State.offerPlain_evict {s : State} {n last : Notice} (h : ¬s.queued < Config.queuePlaces)
    (hl : s.queue.waiting.getLast? = some last) (hh : n.header s.straps.addr < last.header s.straps.addr) :
    s.offerPlain n = ((s.countDropped.setWaiting s.queue.waiting.dropLast).joinQueue n).tellLost last := by
  rw [State.offerPlain, if_neg h, hl]
  exact if_pos hh

/-- At a full queue any other notice is dropped. -/
theorem State.offerPlain_drop {s : State} {n : Notice} (h : ¬s.queued < Config.queuePlaces)
    (hl : ∀ last, s.queue.waiting.getLast? = some last → ¬n.header s.straps.addr < last.header s.straps.addr) :
    s.offerPlain n = s.countDropped.tellLost n := by
  rw [State.offerPlain, if_neg h]
  cases hw : s.queue.waiting.getLast? with
  | none => rfl
  | some last => exact if_neg (hl last hw)

theorem State.offerPlain_overlay (u s : State) (n : Notice) (hs : u.straps = s.straps) (hb : u.bus = s.bus) :
    (u.overlay s).offerPlain n = u.overlay (s.offerPlain n) := by
  have hq : (u.overlay s).queued = s.queued := by
    simp only [State.queued, State.inFlight, show (u.overlay s).bus = s.bus from hb]
    rfl
  have hs' : (u.overlay s).straps = s.straps := hs
  by_cases h : s.queued < Config.queuePlaces
  · rw [State.offerPlain_room h, State.offerPlain_room (s := u.overlay s) (by rwa [hq])]
    simp only [State.overlay, State.joinQueue, State.setWaiting, hs]
  · by_cases hl : ∃ last, s.queue.waiting.getLast? = some last ∧ n.header s.straps.addr < last.header s.straps.addr
    · obtain ⟨last, hl, hh⟩ := hl
      rw [State.offerPlain_evict h hl hh,
        State.offerPlain_evict (s := u.overlay s) (by rwa [hq]) hl (by rwa [hs'])]
      simp only [State.tellLost_eq, State.overlay, State.joinQueue, State.setWaiting, State.countDropped, hs]
    · have hd : ∀ last, s.queue.waiting.getLast? = some last →
          ¬n.header s.straps.addr < last.header s.straps.addr := fun last h1 h2 => hl ⟨last, h1, h2⟩
      rw [State.offerPlain_drop h hd, State.offerPlain_drop (s := u.overlay s) (by rwa [hq]) (by rwa [hs'])]
      simp only [State.tellLost_eq, State.overlay, State.countDropped]

/-- In SILENCED a notice handed over is discarded. -/
theorem State.offer_silenced {s : State} {n : Notice} (h : s.silenced = true) : s.offer n = s.discard n := by
  rw [State.offer, if_pos h]

/-- A CLAIM or WITHDRAW takes the place of the one that waits. -/
theorem State.offer_replaces {s : State} {n : Notice} (h : s.silenced = false) (hn : n.body.isClaimKind = true)
    (hw : hasClaimKind s.queue.waiting = true) :
    s.offer n =
      s.setWaiting (joinAfter s.straps.addr n (s.queue.waiting.filter fun m => !m.body.isClaimKind)) := by
  rw [State.offer, if_neg (by simp [h]), if_pos (by simp [hn, hw])]

/-- A CLAIM or WITHDRAW handed over behind one in transmission is the held successor. -/
theorem State.offer_held {s : State} {n : Notice} (h : s.silenced = false) (hn : n.body.isClaimKind = true)
    (hw : hasClaimKind s.queue.waiting = false) (hs : s.sendingClaimKind = true) :
    s.offer n = { s with queue := { s.queue with held := some n } } := by
  rw [State.offer, if_neg (by simp [h]), if_neg (by simp [hw]), if_pos (by simp [hn, hs])]

/-- Any other notice joins, or at a full queue evicts or is dropped. -/
theorem State.offer_plain {s : State} {n : Notice} (h : s.silenced = false)
    (hn : n.body.isClaimKind = true → hasClaimKind s.queue.waiting = false ∧ s.sendingClaimKind = false) :
    s.offer n = s.offerPlain n := by
  cases hc : n.body.isClaimKind with
  | false => rw [State.offer, if_neg (by simp [h]), if_neg (by simp [hc]), if_neg (by simp [hc])]
  | true =>
    obtain ⟨hw, hs⟩ := hn hc
    rw [State.offer, if_neg (by simp [h]), if_neg (by simp [hw]), if_neg (by simp [hs])]

/-- What handing a notice over does depends on the straps, the controller, the planner, the queue and the pending query
only, and it changes the last three only. -/
theorem State.offer_overlay (u s : State) (n : Notice) (hs : u.straps = s.straps) (hb : u.bus = s.bus) :
    (u.overlay s).offer n = u.overlay (s.offer n) := by
  have hplain := State.offerPlain_overlay u s n hs hb
  have h1 : (u.overlay s).silenced = s.silenced := by simp only [State.silenced, State.overlay, hb]
  have h2 : (u.overlay s).sendingClaimKind = s.sendingClaimKind := by
    simp only [State.sendingClaimKind, State.inFlight, show (u.overlay s).bus = s.bus from hb]
  cases ha : s.silenced with
  | true =>
    rw [State.offer_silenced ha, State.offer_silenced (h1.trans ha)]
    by_cases hd : n.body.isTaken = true ∧ s.planner.window = .contending <;>
      simp only [State.discard, State.overlay, hd, if_false, and_self, if_true]
  | false =>
    by_cases hn : n.body.isClaimKind = true
    · cases hw : hasClaimKind s.queue.waiting with
      | true =>
        rw [State.offer_replaces ha hn hw, State.offer_replaces (s := u.overlay s) (h1.trans ha) hn hw]
        simp only [State.overlay, State.setWaiting, hs]
      | false =>
        cases hc : s.sendingClaimKind with
        | true =>
          rw [State.offer_held ha hn hw hc, State.offer_held (s := u.overlay s) (h1.trans ha) hn hw (h2.trans hc)]
          rfl
        | false =>
          rw [State.offer_plain ha fun _ => ⟨hw, hc⟩,
            State.offer_plain (s := u.overlay s) (h1.trans ha) fun _ => ⟨hw, h2.trans hc⟩, hplain]
    · rw [State.offer_plain ha fun h => absurd h hn, State.offer_plain (s := u.overlay s) (h1.trans ha) fun h => absurd h hn,
        hplain]

theorem State.offerAll_overlay (u s : State) (l : List Notice) (hs : u.straps = s.straps) (hb : u.bus = s.bus) :
    (u.overlay s).offerAll l = u.overlay (s.offerAll l) := by
  induction l generalizing s with
  | nil => rfl
  | cons n ns ih =>
    simp only [State.offerAll, State.offer_overlay u s n hs hb]
    have hself : s.offer n = s.overlay (s.offer n) := State.offer_overlay s s n rfl rfl
    refine ih (s.offer n) ?_ ?_ <;> rw [hself] <;> assumption

/-- Handing a notice over changes the transmit queue, the planner and the pending query only. -/
theorem State.offer_frame (s : State) (n : Notice) : s.offer n = s.overlay (s.offer n) :=
  State.offer_overlay s s n rfl rfl

/-- Handing several notices over changes the transmit queue, the planner and the pending query only. -/
theorem State.offerAll_frame (s : State) (l : List Notice) : s.offerAll l = s.overlay (s.offerAll l) :=
  State.offerAll_overlay s s l rfl rfl

/-- A state that agrees with another in what the queue reads hands a notice over as the other does. -/
theorem State.offer_agree {s u : State} (n : Notice) (hs : u.straps = s.straps) (hb : u.bus = s.bus)
    (hp : u.planner = s.planner) (hq : u.queue = s.queue) (hy : u.query = s.query) :
    u.offer n = u.overlay (s.offer n) := by
  have h : u.overlay s = u := by unfold State.overlay; rw [← hp, ← hq, ← hy]
  rw [← State.offer_overlay u s n hs hb, h]

/-- A state that agrees with another in what the queue reads hands several notices over as the other does. -/
theorem State.offerAll_agree {s u : State} (l : List Notice) (hs : u.straps = s.straps) (hb : u.bus = s.bus)
    (hp : u.planner = s.planner) (hq : u.queue = s.queue) (hy : u.query = s.query) :
    u.offerAll l = u.overlay (s.offerAll l) := by
  have h : u.overlay s = u := by unfold State.overlay; rw [← hp, ← hq, ← hy]
  rw [← State.offerAll_overlay u s l hs hb, h]

end Sys2Proof.Machine
end

