-- ==== Sys2Proof/Laws/Table.lean ====
section
/-! SUPPORT. What the operations of the component table do: reworking every present record, crediting one, the
open-order flag, the pending values. -/

namespace Sys2Proof.Machine

open Sys2Proof

/-! ### Reworking the table -/

@[simp] theorem mapSlots_length (f : SlotConfig → Component → Component) (slots : List SlotConfig)
    (comps : List Component) : (mapSlots f slots comps).length = comps.length := by
  induction slots generalizing comps with
  | nil => simp [mapSlots]
  | cons sl slots ih =>
    cases comps with
    | nil => simp [mapSlots]
    | cons c comps => simp [mapSlots, ih]

/-- Each record of a present slot is reworked by the function, each on its own; every other record stays. -/
theorem mapSlots_getD (f : SlotConfig → Component → Component) (slots : List SlotConfig) (comps : List Component)
    (i : Nat) (hi : i < comps.length) :
    (mapSlots f slots comps).getD i .zero =
      if (slots.getD i .blank).present = true then f (slots.getD i .blank) (comps.getD i .zero)
      else comps.getD i .zero := by
  induction slots generalizing comps i with
  | nil => simp [mapSlots, SlotConfig.blank]
  | cons sl slots ih =>
    cases comps with
    | nil => simp at hi
    | cons c comps =>
      cases i with
      | zero => simp [mapSlots]
      | succ i =>
        simp only [List.length_cons, Nat.add_lt_add_iff_right] at hi
        simpa [mapSlots] using ih comps i hi

/-- Beyond the table a slot reads as the zero record, before and after. -/
theorem mapSlots_getD_beyond (f : SlotConfig → Component → Component) (slots : List SlotConfig)
    (comps : List Component) (i : Nat) (hi : comps.length ≤ i) :
    (mapSlots f slots comps).getD i .zero = comps.getD i .zero := by
  have hm : (mapSlots f slots comps).length ≤ i := by simpa using hi
  simp [List.getD_eq_getElem?_getD, List.getElem?_eq_none hm, List.getElem?_eq_none hi]

/-! ### Credits -/

/-- A credit that the cap leaves nothing of changes nothing. -/
theorem Component.credit_idle {cfg : Configuration} {sl : SlotConfig} {c : Component} {increment : Nat}
    (h : min (capOf sl.life) (c.dyn.account + increment) ≤ c.dyn.account) : c.credit cfg sl increment = c := by
  simp only [Component.credit, h, if_true]

/-- The account after a credit: never lowered, and raised by the increment up to the cap. -/
theorem Component.credit_account (cfg : Configuration) (sl : SlotConfig) (c : Component) (increment : Nat) :
    (c.credit cfg sl increment).dyn.account =
      max c.dyn.account (min (capOf sl.life) (c.dyn.account + increment)) := by
  by_cases h : min (capOf sl.life) (c.dyn.account + increment) ≤ c.dyn.account
  · rw [Component.credit_idle h]
    omega
  · simp only [Component.credit, h, if_false]
    omega

/-- A credit never lowers an account. -/
theorem Component.credit_account_ge (cfg : Configuration) (sl : SlotConfig) (c : Component) (increment : Nat) :
    c.dyn.account ≤ (c.credit cfg sl increment).dyn.account := by
  rw [Component.credit_account]
  exact Nat.le_max_left _ _

/-- A credit keeps an account within its cap. -/
theorem Component.credit_capped (cfg : Configuration) (sl : SlotConfig) (c : Component) (increment : Nat)
    (h : c.dyn.account ≤ capOf sl.life) : (c.credit cfg sl increment).dyn.account ≤ capOf sl.life := by
  rw [Component.credit_account]
  omega

/-- A credit leaves slip, rate, service count, LOST, hours and the open-order flag. -/
theorem Component.credit_keeps (cfg : Configuration) (sl : SlotConfig) (c : Component) (increment : Nat) :
    (c.credit cfg sl increment).dyn.slip = c.dyn.slip ∧ (c.credit cfg sl increment).dyn.rate = c.dyn.rate ∧
      (c.credit cfg sl increment).dyn.rateValid = c.dyn.rateValid ∧
      (c.credit cfg sl increment).dyn.serviceCount = c.dyn.serviceCount ∧
      (c.credit cfg sl increment).dyn.lost = c.dyn.lost ∧ (c.credit cfg sl increment).hours = c.hours ∧
      (c.credit cfg sl increment).openOrder = c.openOrder := by
  unfold Component.credit
  dsimp only
  split <;> exact ⟨rfl, rfl, rfl, rfl, rfl, rfl, rfl⟩

/-- A credit keeps the derived fields in agreement with the stored ones. -/
theorem Component.credit_recordLaw {cfg : Configuration} {sl : SlotConfig} {c : Component} (increment : Nat)
    (hp : sl.present = true) (h : RecordLaw cfg sl c) : RecordLaw cfg sl (c.credit cfg sl increment) := by
  simp only [RecordLaw, hp, if_true] at h ⊢
  obtain ⟨hw, hu, hb⟩ := h
  by_cases hi : min (capOf sl.life) (c.dyn.account + increment) ≤ c.dyn.account
  · rw [Component.credit_idle hi]
    exact ⟨hw, hu, hb⟩
  · simp only [Component.credit, hi, if_false]
    refine ⟨trivial, ?_, ?_⟩
    · by_cases he : wearOf (min (capOf sl.life) (c.dyn.account + increment)) sl.life = c.wear
      · rw [if_pos he, he, hu]
      · rw [if_neg he]
    · by_cases he : wearOf (min (capOf sl.life) (c.dyn.account + increment)) sl.life = c.wear
      · simp only [he, if_true, true_and, hb, ← hu]
      · simp only [he, if_false, false_and]

/-! ### Flags and the pending values -/

/-- Setting the flag of a slot changes that record only, and of it the flag only. -/
theorem State.setFlag_comp (s : State) (slot : Nat) (flag : Bool) (i : Nat) (hs : slot < s.comps.length) :
    (s.setFlag slot flag).comp i = if i = slot then { s.comp slot with openOrder := flag } else s.comp i := by
  simp only [State.setFlag, State.comp, List.getD_eq_getElem?_getD, List.getElem?_set]
  by_cases h : slot = i
  · subst h
    simp [hs]
  · rw [if_neg h, if_neg fun e => h e.symm]

/-- Putting a table puts its records and the pending values that follow from it, and nothing else. -/
theorem State.setComps_eq (s : State) (comps : List Component) :
    s.setComps comps =
      { s with
        comps := comps, forecast := { s.forecast with pending := nodeForecast s.cfg.slots comps } } := rfl

/-- A table in which no band changed has no ALERT to queue. -/
theorem bandAlerts_same (i : Nat) (olds news : List Component)
    (h : olds.map (fun c => c.band) = news.map fun c => c.band) : bandAlerts i olds news = [] := by
  induction olds generalizing news i with
  | nil => cases news <;> simp [bandAlerts]
  | cons old olds ih =>
    cases news with
    | nil => simp [bandAlerts]
    | cons new news =>
      simp only [List.map_cons, List.cons.injEq] at h
      simp [bandAlerts, h.1, ih (i + 1) news h.2]

/-- The ALERTs of a rework, written by the slots whose band changed. -/
theorem bandAlerts_eq (first : Nat) (olds news : List Component) (h : olds.length = news.length) :
    bandAlerts first olds news =
      ((List.range olds.length).filter
          fun i => decide ((olds.getD i .zero).band ≠ (news.getD i .zero).band)).map
        fun i => alertOf (first + i) (news.getD i .zero) := by
  induction olds generalizing first news with
  | nil => cases news <;> simp [bandAlerts]
  | cons old olds ih =>
    cases news with
    | nil => simp at h
    | cons new news =>
      simp only [List.length_cons, Nat.add_right_cancel_iff] at h
      rw [List.length_cons, List.range_succ_eq_map, List.filter_cons, bandAlerts, ih (first + 1) news h]
      have hm :
          (List.filter (fun i => decide (((old :: olds).getD i .zero).band ≠ ((new :: news).getD i .zero).band))
              ((List.range olds.length).map Nat.succ)).map
              (fun i => alertOf (first + i) ((new :: news).getD i .zero)) =
            ((List.range olds.length).filter
                fun i => decide ((olds.getD i .zero).band ≠ (news.getD i .zero).band)).map
              fun i => alertOf (first + 1 + i) (news.getD i .zero) := by
        rw [List.filter_map, List.map_map]
        congr 1
        funext i
        simp [Nat.add_assoc, Nat.add_comm 1 i]
      by_cases hb : old.band = new.band
      · simp only [hb, if_true, List.getD_cons_zero, ne_eq, not_true_eq_false, decide_false]
        exact hm.symm
      · simp only [hb, if_false, List.getD_cons_zero, ne_eq, not_false_eq_true, decide_true, if_true,
          List.map_cons, Nat.add_zero]
        exact congrArg _ hm.symm

/-- The folded node values are the largest U, the number of due records and their smallest H. -/
theorem nodeForecast_of (slots : List SlotConfig) (comps : List Component) :
    ForecastOf slots comps (nodeForecast slots comps) := by
  induction slots generalizing comps with
  | nil => simp [ForecastOf, nodeForecast]
  | cons sl slots ih =>
    cases comps with
    | nil => simp [ForecastOf, nodeForecast]
    | cons c comps =>
      have h := ih comps
      by_cases hp : sl.present = true
      · by_cases hd : 128 ≤ c.urgency
        · simp only [ForecastOf, nodeForecast, List.zip_cons_cons, List.filter_cons, hp, if_true, List.map_cons, hd,
            decide_true, List.length_cons, List.mem_cons, forall_eq_or_imp, exists_eq_or_imp] at h ⊢
          obtain ⟨h1, h2, h3, h4, h5, h6⟩ := h
          refine ⟨⟨Nat.le_max_left _ _, fun a ha => Nat.le_trans (h1 a ha) (Nat.le_max_right _ _)⟩, ?_, by rw [h3],
            ⟨Nat.min_le_left _ _, fun a ha => Nat.le_trans (Nat.min_le_right _ _) (h4 a ha)⟩,
            Nat.le_trans (Nat.min_le_right _ _) h5, ?_⟩
          · rcases Nat.le_total (nodeForecast slots comps).urgency c.urgency with e | e
            · exact .inr (.inl (Nat.max_eq_left e).symm)
            · rw [Nat.max_eq_right e]
              exact h2.imp id .inr
          · rcases Nat.le_total c.hours (nodeForecast slots comps).earliestHours with e | e
            · exact .inr (.inl (Nat.min_eq_left e).symm)
            · rw [Nat.min_eq_right e]
              exact h6.imp id .inr
        · simp only [ForecastOf, nodeForecast, List.zip_cons_cons, List.filter_cons, hp, if_true, List.map_cons, hd,
            decide_false, if_false, List.mem_cons, forall_eq_or_imp, exists_eq_or_imp, Bool.false_eq_true] at h ⊢
          obtain ⟨h1, h2, h3, h4, h5, h6⟩ := h
          refine ⟨⟨Nat.le_max_left _ _, fun a ha => Nat.le_trans (h1 a ha) (Nat.le_max_right _ _)⟩, ?_, h3, h4, h5, h6⟩
          rcases Nat.le_total (nodeForecast slots comps).urgency c.urgency with e | e
          · exact .inr (.inl (Nat.max_eq_left e).symm)
          · rw [Nat.max_eq_right e]
            exact h2.imp id .inr
      · simpa only [ForecastOf, nodeForecast, List.zip_cons_cons, List.filter_cons, hp, if_false, Bool.false_eq_true]
          using h

/-! ### Replacing one -/

/-- A REPLACE of a slot that is not present changes nothing. -/
theorem State.replaceSlot_absent {s : State} {n : Nat} (h : (s.cfg.slot n).present = false) : s.replaceSlot n = s := by
  simp [State.replaceSlot, h]

/-- A REPLACE of a present slot puts the new record in the table and offers its ALERT (R74). -/
theorem State.replaceSlot_present {s : State} {n : Nat} (h : (s.cfg.slot n).present = true) :
    s.replaceSlot n =
      (s.setComps (s.comps.set n ((s.comp n).replaced s.cfg (s.cfg.slot n)))).offer
        (alertOf n ((s.comp n).replaced s.cfg (s.cfg.slot n))) := by
  simp [State.replaceSlot, h]

end Sys2Proof.Machine
end

