-- ==== Sys2Proof/Laws/Ring.lean ====
section
/-! SUPPORT. What the operations of the order ring do: the due slots and their order, appending, closing the head. -/

namespace Sys2Proof.Machine

open Sys2Proof

theorem nextPosition_lt (position : Nat) : nextPosition position < Config.slots := Nat.mod_lt _ (by decide)

/-- Reading the ring after one position was written. -/
theorem OrderList.at_set (o : OrderList) (position : Nat) (r : OrderRecord) (i : Nat)
    (hp : position < o.ring.length) :
    { o with ring := o.ring.set position r }.at i = if i = position then r else o.at i := by
  simp only [OrderList.at, List.getD_eq_getElem?_getD, List.getElem?_set]
  by_cases h : position = i
  · subst h
    simp [hp]
  · rw [if_neg h, if_neg fun e => h e.symm]

/-- The due slots from one slot on: those within the table that are present, due and without an open order. -/
theorem mem_dueSlots (start : Nat) (slots : List SlotConfig) (comps : List Component) (i : Nat) :
    i ∈ dueSlots start slots comps ↔
      start ≤ i ∧ i - start < slots.length ∧ i - start < comps.length ∧
        (slots.getD (i - start) .blank).present = true ∧
        Config.dueUrgency ≤ (comps.getD (i - start) .zero).urgency ∧
        (comps.getD (i - start) .zero).openOrder = false := by
  induction slots generalizing start comps with
  | nil => simp [dueSlots]
  | cons sl slots ih =>
    cases comps with
    | nil => simp [dueSlots]
    | cons c comps =>
      by_cases hi : i = start
      · subst hi
        have hno : ¬i ∈ dueSlots (i + 1) slots comps := by rw [ih]; omega
        simp only [dueSlots]
        split
        · next h =>
          simp only [Bool.and_eq_true, decide_eq_true_eq, Bool.not_eq_true'] at h
          simp [h.1.1, h.1.2, h.2]
        · next h =>
          simp only [Bool.and_eq_true, decide_eq_true_eq, Bool.not_eq_true'] at h
          simp only [hno, false_iff, Nat.sub_self, List.getD_cons_zero]
          exact fun e => h ⟨⟨e.2.2.2.1, e.2.2.2.2.1⟩, e.2.2.2.2.2⟩
      · have hstep : i ∈ dueSlots start (sl :: slots) (c :: comps) ↔ i ∈ dueSlots (start + 1) slots comps := by
          simp only [dueSlots]
          split <;> simp [hi]
        rw [hstep, ih]
        by_cases hl : start + 1 ≤ i
        · have e : i - start = (i - (start + 1)) + 1 := by omega
          simp only [e, List.length_cons, List.getD_cons_succ]
          constructor
          · rintro ⟨h1, h2, h3, h4⟩
            exact ⟨by omega, by omega, by omega, h4⟩
          · rintro ⟨h1, h2, h3, h4⟩
            exact ⟨by omega, by omega, by omega, h4⟩
        · constructor <;> (rintro ⟨h1, -⟩; omega)

theorem insertDue_perm (comps : List Component) (i : Nat) (l : List Nat) : (insertDue comps i l).Perm (i :: l) := by
  induction l with
  | nil => simp [insertDue]
  | cons j js ih =>
    simp only [insertDue]
    split
    · exact List.Perm.refl _
    · exact (List.Perm.cons j ih).trans (List.Perm.swap i j js)

/-- Sorting the due slots keeps them. -/
theorem sortDue_perm (comps : List Component) (l : List Nat) : (sortDue comps l).Perm l := by
  induction l with
  | nil => exact List.Perm.refl _
  | cons i is ih => exact (insertDue_perm comps i _).trans (List.Perm.cons i ih)

/-- Sorted by urgency, highest first. -/
theorem sortDue_descending (comps : List Component) (l : List Nat) :
    (sortDue comps l).Pairwise fun i j => (comps.getD j .zero).urgency ≤ (comps.getD i .zero).urgency := by
  have key : ∀ (i : Nat) (m : List Nat),
      (m.Pairwise fun i j => (comps.getD j .zero).urgency ≤ (comps.getD i .zero).urgency) →
      (insertDue comps i m).Pairwise fun i j => (comps.getD j .zero).urgency ≤ (comps.getD i .zero).urgency := by
    intro i m
    induction m with
    | nil => simp [insertDue]
    | cons j js ih =>
      intro h
      obtain ⟨hj, hjs⟩ := List.pairwise_cons.1 h
      simp only [insertDue]
      split
      · next hij =>
        refine List.pairwise_cons.2 ⟨?_, h⟩
        intro x hx
        rcases List.mem_cons.1 hx with rfl | hx
        · exact hij
        · exact Nat.le_trans (hj x hx) hij
      · next hij =>
        refine List.pairwise_cons.2 ⟨?_, ih hjs⟩
        intro x hx
        rcases List.mem_cons.1 ((insertDue_perm comps i js).subset hx) with rfl | hx
        · exact Nat.le_of_lt (Nat.lt_of_not_le hij)
        · exact hj x hx
  induction l with
  | nil => simp [sortDue]
  | cons i is ih => exact key i _ ih

/-- Appending orders changes the ring, the flags and the node mark only. -/
theorem State.appendOrders_frame (s : State) (l : List Nat) :
    s.appendOrders l =
      { s with
        orders := (s.appendOrders l).orders, comps := (s.appendOrders l).comps
        account := { s.account with nodeMarked := s.account.nodeMarked || !l.isEmpty } } := by
  induction l generalizing s with
  | nil => simp [State.appendOrders]
  | cons i is ih =>
    rw [State.appendOrders, ih (s.appendOrder i)]
    simp [State.appendOrder, State.setFlag]

end Sys2Proof.Machine
end

