-- ==== Sys2Proof/Laws/Store.lean ====
section
/-! SUPPORT. What the operations of the Account Store do: a record written and read back, the store after writes and
after damage, the records of a checkpoint. -/

namespace Sys2Proof.Machine

open Sys2Proof

/-! ### One record -/

/-- What a record write leaves is the contents with their check word. -/
theorem sealed_eq {α : Type} (bytes : α → List Byte) (contents : α) : sealed bytes contents = stored bytes contents :=
  rfl

/-- A record written and not damaged is good when it is read. -/
@[simp] theorem sealed_found {α : Type} (bytes : α → List Byte) (contents : α) :
    (sealed bytes contents).found bytes = .good contents := by
  simp [sealed, Stored.found]

@[simp] theorem Stored.absent_found {α : Type} (bytes : α → List Byte) :
    (Stored.absent : Stored α).found bytes = .absent := rfl

/-- A record is good exactly when it holds the contents with their check word. -/
theorem Stored.found_good_iff {α : Type} (bytes : α → List Byte) (r : Stored α) (contents : α) :
    r.found bytes = .good contents ↔ r = stored bytes contents := by
  cases r with
  | absent => simp [Stored.found]
  | written held check =>
    simp only [Stored.found, Stored.written.injEq, recordCheck]
    by_cases h : check = checkWord (payloadBits (bytes held))
    · simp only [h, if_true, Found.good.injEq]
      exact ⟨fun e => ⟨e, by rw [e]⟩, fun e => e.1⟩
    · simp only [h, if_false, false_iff, reduceCtorEq]
      rintro ⟨rfl, rfl⟩
      exact h rfl

/-- A record is bad exactly when its check word does not match its contents. -/
theorem Stored.found_bad_iff {α : Type} (bytes : α → List Byte) (r : Stored α) :
    r.found bytes = .bad ↔ r.Bad bytes := by
  cases r with
  | absent => simp [Stored.found, Stored.Bad]
  | written held check =>
    simp only [Stored.found, Stored.Bad, recordCheck, Stored.written.injEq]
    by_cases h : check = checkWord (payloadBits (bytes held))
    · simp only [h, if_true, false_iff, reduceCtorEq]
      rintro ⟨_, _, ⟨rfl, rfl⟩, hn⟩
      exact hn rfl
    · simp only [h, if_false, true_iff]
      exact ⟨held, check, ⟨rfl, rfl⟩, h⟩

/-- A record written with contents that meet a test meets it. -/
theorem sealed_meets {α : Type} {bytes : α → List Byte} {test : α → Bool} {contents : α} (h : test contents = true) :
    (sealed bytes contents).meets bytes test = true := by
  simp [sealed, Stored.meets, h]

/-- Damage keeps a record within a test where its contents meet it or its check word gives it away. -/
theorem Stored.spoil_meets {α : Type} {bytes : α → List Byte} {test : α → Bool} {contents : α} {check : BitVec 16}
    (r : Stored α) (h : test contents = true ∨ check ≠ recordCheck (bytes contents)) :
    (r.spoil contents check).meets bytes test = true := by
  cases r with
  | absent => rfl
  | written held _ => rcases h with h | h <;> simp [Stored.spoil, Stored.meets, h]

/-! ### The store -/

/-- A store with one list entry replaced holds the entry or what it held. -/
theorem mem_set_cases {α : Type} {l : List α} {i : Nat} {a x : α} (h : x ∈ l.set i a) : x ∈ l ∨ x = a :=
  List.mem_or_eq_of_mem_set h

/-- A lawful record write keeps every good record within its widths. -/
theorem Store.write_inRange {st : Store} {w : StoreWrite} (h : st.InRange) (hw : w.lawful = true) :
    (st.write w).InRange := by
  obtain ⟨⟨hc, hcs⟩, ⟨ho, hos⟩, hn⟩ := h
  cases w with
  | config c => exact ⟨⟨hc, hcs⟩, ⟨ho, hos⟩, hn⟩
  | component i d =>
    refine ⟨⟨by simpa [Store.write] using hc, ?_⟩, ⟨ho, hos⟩, hn⟩
    intro r hr
    rcases mem_set_cases hr with hr | rfl
    · exact hcs r hr
    · exact sealed_meets hw
  | order i o =>
    refine ⟨⟨hc, hcs⟩, ⟨by simpa [Store.write] using ho, ?_⟩, hn⟩
    intro r hr
    rcases mem_set_cases hr with hr | rfl
    · exact hos r hr
    · exact sealed_meets hw
  | node n => exact ⟨⟨hc, hcs⟩, ⟨ho, hos⟩, sealed_meets hw⟩

/-- Several lawful record writes keep every good record within its widths. -/
theorem Store.writeAll_inRange {st : Store} {ws : List StoreWrite} (h : st.InRange)
    (hw : (ws.all fun w => w.lawful) = true) : (st.writeAll ws).InRange := by
  induction ws generalizing st with
  | nil => exact h
  | cons w ws ih =>
    simp only [List.all_cons, Bool.and_eq_true] at hw
    exact ih (Store.write_inRange h hw.1) hw.2

/-- Damage keeps every good record within its widths: what passes its check word is lawful. -/
theorem Store.damage_inRange {st : Store} (d : StoreDamage) (h : st.InRange) : (st.damage d).InRange := by
  unfold Store.damage
  split
  · rename_i hl
    simp only [Bool.or_eq_true, Bool.not_eq_true'] at hl
    obtain ⟨⟨hc, hcs⟩, ⟨ho, hos⟩, hn⟩ := h
    obtain ⟨record, check⟩ := d
    cases record with
    | config c => exact ⟨⟨hc, hcs⟩, ⟨ho, hos⟩, hn⟩
    | component i d =>
      refine ⟨⟨by simpa using hc, ?_⟩, ⟨ho, hos⟩, hn⟩
      intro r hr
      rcases mem_set_cases hr with hr | rfl
      · exact hcs r hr
      · exact Stored.spoil_meets _ (hl.imp id fun e => by simpa [StoreDamage.unseen] using e)
    | order i o =>
      refine ⟨⟨hc, hcs⟩, ⟨by simpa using ho, ?_⟩, hn⟩
      intro r hr
      rcases mem_set_cases hr with hr | rfl
      · exact hos r hr
      · exact Stored.spoil_meets _ (hl.imp id fun e => by simpa [StoreDamage.unseen] using e)
    | node n =>
      exact ⟨⟨hc, hcs⟩, ⟨ho, hos⟩, Stored.spoil_meets _ (hl.imp id fun e => by simpa [StoreDamage.unseen] using e)⟩
  · exact h

/-- All damage keeps every good record within its widths. -/
theorem Store.damaged_inRange {st : Store} (ds : List StoreDamage) (h : st.InRange) : (st.damaged ds).InRange := by
  induction ds generalizing st with
  | nil => exact h
  | cons d ds ih => exact ih (Store.damage_inRange d h)

/-! ### The records of a checkpoint -/

/-- Writing a record writes it as it stands and clears its mark, and nothing else. -/
theorem State.writeComponent_eq (s : State) (i : Nat) :
    s.writeRecord (.component i) =
      { s with
        account := { s.account with records := s.account.records.write (.component i (s.comp i).dyn) }
        comps := s.comps.set i { s.comp i with marked := false } } := rfl

theorem State.writeOrder_eq (s : State) (i : Nat) :
    s.writeRecord (.order i) =
      { s with
        account := { s.account with records := s.account.records.write (.order i (s.orders.at i)) }
        orders := { s.orders with marks := s.orders.marks.set i false } } := rfl

theorem State.writeNode_eq (s : State) :
    s.writeRecord .node =
      { s with
        account := { s.account with records := s.account.records.write (.node s.nodeRecord), nodeMarked := false } } :=
  rfl

end Sys2Proof.Machine
end

