-- ==== Sys2Proof/Laws/Tracking.lean ====
section
/-! SUPPORT. What the operations of the Piece Tracker do: the stale sweep, the jam actions, the clear hold. -/

namespace Sys2Proof.Machine

open Sys2Proof

/-- The entries that a sweep takes are those that it does not keep. -/
theorem stale_count (inbound : List InboundEntry) (tHand : Nat) :
    (inbound.countP fun e => decide (tHand < e.age)) =
      inbound.length - (inbound.filter fun e => decide (e.age ≤ tHand)).length := by
  induction inbound with
  | nil => rfl
  | cons e inbound ih =>
    have hl := List.length_filter_le (fun e : InboundEntry => decide (e.age ≤ tHand)) inbound
    by_cases h : e.age ≤ tHand
    · have hn : ¬tHand < e.age := by omega
      simp only [List.countP_cons, List.filter_cons, h, hn, decide_true, decide_false, if_true, List.length_cons, ih]
      simp
    · have hn : tHand < e.age := by omega
      simp only [List.countP_cons, List.filter_cons, h, hn, decide_true, decide_false, if_true, List.length_cons, ih]
      simp
      omega

/-- The JAM notice carries the cause, how many records are cleared, and the oldest one's tag. -/
theorem jamNotice_eq (cause : JamCause) (t : Tracker) :
    jamNotice cause t =
      { priority := 0
        body := .jam cause t.pieces.length ((t.pieces.map fun p => p.tag).headD 0) } := by
  unfold jamNotice
  cases t.pieces <;> rfl

/-- The jam actions: the tracker JAMMED, the JAM notice offered, the surcharge handed on, and nothing else. -/
theorem State.jam_eq (s : State) (cause : JamCause) :
    s.jam cause =
      { s.offer (jamNotice cause s.tracker) with
        tracker := s.tracker.jammed s.clearCondition, handed := s.handed ++ [.jamSurcharge] } := by
  have h := State.offer_agree (s := s) (u := { s with tracker := s.tracker.jammed s.clearCondition })
    (jamNotice cause s.tracker) rfl rfl rfl rfl rfl
  rw [State.jam, h, State.offer_frame s]
  rfl

/-- Outside JAMMED the clear hold is not looked at. -/
theorem State.reviewHold_calm {s : State} (h : s.tracker.sectionState ≠ .jammed) : s.reviewHold = s := by
  rw [State.reviewHold, if_neg h]

/-- In JAMMED the clear hold runs on or starts while the clear condition holds, and else none runs. -/
theorem State.reviewHold_jammed {s : State} (h : s.tracker.sectionState = .jammed) :
    s.reviewHold =
      { s with
        tracker :=
          { s.tracker with clearHold := if s.clearCondition then some (s.tracker.clearHold.getD 0) else none } } := by
  rw [State.reviewHold, if_pos h]

/-- The clear condition in words. -/
theorem State.clearCondition_iff (s : State) :
    s.clearCondition = true ↔
      s.lines.levels.motorRun.level = false ∧ s.lines.levels.entryEye.level = false ∧
        s.lines.levels.straightEye.level = false ∧
        (s.cfg.assigned .divertEye = true → s.lines.levels.divertEye.level = false) := by
  unfold State.clearCondition
  cases s.lines.levels.motorRun.level <;> cases s.lines.levels.entryEye.level <;>
    cases s.lines.levels.straightEye.level <;> cases s.cfg.assigned .divertEye <;> simp

end Sys2Proof.Machine
end

