-- ==== Sys2Proof/Laws/View.lean ====
section
/-! SUPPORT. What the operations of the claim view and of the taken set do. -/

namespace Sys2Proof.Machine

open Sys2Proof

/-- The rank order of entries (R138). -/
theorem ClaimEntry.before_iff (a b : ClaimEntry) :
    a.before b = true ↔ b.urgency < a.urgency ∨ (a.urgency = b.urgency ∧ a.address < b.address) := by
  simp [ClaimEntry.before]

theorem ClaimEntry.before_trans {a b c : ClaimEntry} (h : a.before b = true) (h' : b.before c = true) :
    a.before c = true := by
  rw [ClaimEntry.before_iff] at *
  simp only [BitVec.lt_def] at *
  omega

/-- Entries of different addresses are ranked one way or the other. -/
theorem ClaimEntry.before_total {a b : ClaimEntry} (h : a.address ≠ b.address) (hn : ¬a.before b = true) :
    b.before a = true := by
  rw [ClaimEntry.before_iff] at *
  simp only [BitVec.lt_def] at *
  have : a.address.toNat ≠ b.address.toNat := fun e => h (BitVec.eq_of_toNat_eq e)
  omega

/-- A view in rank order. -/
abbrev Ranked (view : List ClaimEntry) : Prop := view.Pairwise fun a b => a.before b = true

theorem viewInsert_perm (e : ClaimEntry) (view : List ClaimEntry) : (viewInsert e view).Perm (e :: view) := by
  induction view with
  | nil => simp [viewInsert]
  | cons x xs ih =>
    simp only [viewInsert]
    split
    · exact List.Perm.refl _
    · exact (List.Perm.cons x ih).trans (List.Perm.swap e x xs)

@[simp] theorem viewInsert_length (e : ClaimEntry) (view : List ClaimEntry) :
    (viewInsert e view).length = view.length + 1 := (viewInsert_perm e view).length_eq

/-- An entry put into a ranked view without its address takes the place its rank gives it. -/
theorem viewInsert_ranked {e : ClaimEntry} {view : List ClaimEntry} (h : Ranked view)
    (hn : ∀ x ∈ view, x.address ≠ e.address) : Ranked (viewInsert e view) := by
  induction view with
  | nil => simp [viewInsert, Ranked]
  | cons x xs ih =>
    obtain ⟨hx, hxs⟩ := List.pairwise_cons.1 h
    simp only [viewInsert]
    split
    · next he =>
      refine List.pairwise_cons.2 ⟨?_, h⟩
      intro y hy
      rcases List.mem_cons.1 hy with rfl | hy
      · exact he
      · exact ClaimEntry.before_trans he (hx y hy)
    · next he =>
      refine List.pairwise_cons.2 ⟨?_, ih hxs fun y hy => hn y (List.mem_cons_of_mem _ hy)⟩
      intro y hy
      rcases List.mem_cons.1 ((viewInsert_perm e xs).subset hy) with rfl | hy
      · exact ClaimEntry.before_total (fun eq => hn x List.mem_cons_self eq.symm) he
      · exact hx y hy

/-- Removing an address keeps the rank order. -/
theorem viewRemove_ranked {view : List ClaimEntry} (source : Addr) (h : Ranked view) :
    Ranked (viewRemove view source) := h.sublist List.filter_sublist

/-- After a removal no entry has the address. -/
theorem viewRemove_address {view : List ClaimEntry} {source : Addr} {e : ClaimEntry}
    (h : e ∈ viewRemove view source) : e.address ≠ source := by
  simpa [viewRemove] using (List.mem_filter.1 h).2

/-- An address joins the taken set once, and not as a ninth. -/
theorem addTaken_eq (set : List Addr) (a : Addr) :
    addTaken set a = if a ∈ set ∨ Config.takenPlaces ≤ set.length then set else set ++ [a] := by
  simp [addTaken]

theorem addTaken_length (set : List Addr) (a : Addr) (h : set.length ≤ Config.takenPlaces) :
    (addTaken set a).length ≤ Config.takenPlaces := by
  rw [addTaken_eq]
  split
  · exact h
  · next hn =>
    simp only [not_or, Nat.not_le] at hn
    simp only [List.length_append, List.length_cons, List.length_nil]
    omega

theorem addTaken_nodup {set : List Addr} (a : Addr) (h : set.Nodup) : (addTaken set a).Nodup := by
  rw [addTaken_eq]
  split
  · exact h
  · next hn =>
    simp only [not_or] at hn
    rw [List.nodup_append]
    refine ⟨h, by simp, ?_⟩
    simp only [List.mem_cons, List.not_mem_nil, or_false, forall_eq]
    exact fun x hx e => hn.1 (e ▸ hx)

end Sys2Proof.Machine
end

