-- ==== Sys2Proof/WellFormed.lean ====
section
/-! DEFINITION. Which commands name something the part has: a line of the 24 (R1), a slot or record of the 32 (R52, R174), a cell
of a frame (R101), an encoder count within its width (R8). Operands held as bit vectors need no check. -/

namespace Sys2Proof

/-- A write names a record of the store (R174). -/
def Machine.StoreWrite.named : Machine.StoreWrite → Bool
  | .config _ => true
  | .component slot _ => decide (slot < Config.slots)
  | .order position _ => decide (position < Config.slots)
  | .node _ => true

/-- An event that the part can meet, as far as its operands alone say. -/
def Instr.wellFormed : Instr → Bool
  | .pulseCounted line => decide (line < Config.lines)
  | .distanceCredit count => decide (count ≤ Config.countTop)
  | .replace n => decide (n < Config.slots)
  | .claimEntryAgeOut addr => decide (1 ≤ addr.toNat ∧ addr.toNat ≤ 62)
  | .arbitrationLost cell => decide (1 ≤ cell ∧ cell ≤ 17)
  | .frameAbort cell => decide (cell < 44 + 8 * Config.payloadTop)
  | .frameReceived cells => decide (cells.length ≤ 44 + 8 * Config.payloadTop) && !(cells.headD true)
  | .powerLoss begun => decide (begun ≤ 66)
  | .startComplete damage _ => damage.all fun d => d.record.named
  | _ => true

end Sys2Proof
end

