-- ==== Sys2Proof/Tests/Slice0.lean ====
section
/-! SUPPORT. Tests on small states: what WellFormed refuses, the worked examples of spec/ (each test names its
chapter), and for each statement with hypotheses a witness that meets them. -/

namespace Sys2Proof.Tests

-- one theorem at a time: the kernel evaluations of many at once need more threads than memory allows
set_option Elab.async false

open Sys2Proof Sys2Proof.Machine

/-! ### What WellFormed refuses -/

theorem test_wellFormed_line : Instr.wellFormed (.pulseCounted 24) = false := by decide
theorem test_wellFormed_distance : Instr.wellFormed (.distanceCredit 65536) = false := by decide
theorem test_wellFormed_slot : Instr.wellFormed (.replace 32) = false := by decide
theorem test_wellFormed_address : Instr.wellFormed (.claimEntryAgeOut 63) = false := by decide
theorem test_wellFormed_header_cell : Instr.wellFormed (.arbitrationLost 18) = false := by decide
theorem test_wellFormed_frame_cell : Instr.wellFormed (.frameAbort 140) = false := by decide
theorem test_wellFormed_lead_cell : Instr.wellFormed (.frameReceived [true]) = false := by decide
theorem test_wellFormed_frame_length :
    Instr.wellFormed (.frameReceived (List.replicate 141 false)) = false := by
  simp [Instr.wellFormed, Config.payloadTop]
theorem test_wellFormed_writes : Instr.wellFormed (.powerLoss 67) = false := by decide
theorem test_wellFormed_damage :
    Instr.wellFormed (.startComplete [{ record := .component 32 .zero, check := 0 }] 0) = false := by decide
theorem test_wellFormed_accepts :
    (([.pulseCounted 23, .distanceCredit 65535, .replace 31, .claimEntryAgeOut 62, .arbitrationLost 17,
        .frameAbort 139, .frameReceived [false], .powerLoss 66,
        .startComplete [{ record := .order 31 .empty, check := 0 }] 0, .commit] : List Instr).all Instr.wellFormed) = true := by decide

/-! ### Small states -/

/-- The state after a command. -/
def after (command : Instr) (s : State) : State :=
  match exec command s with
  | .next t => t
  | .fault _ => s
  | .refused _ => s

/-- The command takes the state to a next one that passes a check. -/
def takesTo (command : Instr) (s : State) (check : State → Bool) : Bool :=
  match exec command s with
  | .next t => check t
  | .fault _ => false
  | .refused _ => false

/-- Straps of node 14 (spec/08, worked five-node view), started to operate. -/
def straps : Straps := { addr := 14, rate := 1, commission := false }

/-- Straps of node 14, started to be commissioned. -/
def toolStraps : Straps := { straps with commission := true }

/-- A component of the worked piece credit (spec/04): a slot with its path, life and weight. -/
def component (kind : Kind) (path : Path) (life weight : Nat) (tach : Option Nat) : SlotConfig :=
  { SlotConfig.blank with
    present := true, kind := kind, path := path, life := life, weight := weight, tach := tach, ratio := 320,
    distance := 10, start := 256 }

/-- The slots of the worked piece credit (spec/04): 0, 4, 7, 9 and 12. -/
def slots : List SlotConfig :=
  [component .belt .common 40000000 16 none, .blank, .blank, .blank,
    component .driveRoller .common 2000000 20 (some 4), .blank, .blank,
    component .pinchRoller .straight 500000 16 none, .blank, component .pinchRoller .common 3000000 24 none, .blank,
    .blank, component .pinchRoller .divert 500000 16 none] ++
    List.replicate 19 .blank

/-- Lines 0 to 9: the three eyes, ENCODER, TACH, TACH, MOTOR_RUN, MAINT, CONFIRM, DECLINE; the rest masked. -/
def functions : List LineFn :=
  [.entryEye, .straightEye, .divertEye, .encoder, .tach, .tach, .motorRun, .maint, .confirm, .decline] ++
    List.replicate 14 .masked

/-- A committed configuration: G 64, Hz 120, T_watch 700, K 2, T_hand 1500, T_transit 1200, T_block 300, upstream
(11, STRAIGHT), TF[3] 320, MF[2] 288 (spec/02 worked handoff, spec/04 worked piece credit). -/
def config : Configuration :=
  { Configuration.blank with
    k := 2, hz := 120, tWatch := 700, tHold := 1000, g := 64, defThickness := 2, defMass := 1,
    classSource := .upstream, j := 3, tTransit := 1200, tBlock := 300, tHand := 1500
    thicknessFactors := [256, 256, 256, 320, 256, 256, 256, 1023]
    massFactors := [256, 256, 288, 256, 256, 256, 256, 1023]
    upstream := [{ inUse := true, address := 11, exit := .straight }, { inUse := false, address := 1, exit := .straight }]
    functions := functions
    slots := slots }

/-- The records before the worked forecast's boundary (spec/05), by slot. -/
def record (account rate hourDelta hours urgency : Nat) (wear : Nat) (band : Band) : Component :=
  { dyn := { DynRecord.zero with account := account, rate := rate, rateValid := true, hourDelta := hourDelta }
    wear := wear, hours := hours, urgency := urgency, band := band, openOrder := false, marked := false }

/-- One reference passage in ticks (R52). -/
abbrev passage : Nat := 268435456

/-- The component table just before the worked forecast's boundary (spec/05). -/
def comps : List Component :=
  [record (12000000 * passage) (9000 * passage) (9400 * passage) 3112 0 300 .normal, .zero, .zero, .zero,
    record (1700000 * passage) (5600 * passage) (6000 * passage) 54 197 850 .due, .zero, .zero,
    record 93952409500000 (360 * passage) (420 * passage) 417 0 699 .normal, .zero,
    record (900000 * passage) (2000 * passage) (2200 * passage) 1051 0 300 .normal, .zero, .zero,
    record (420000 * passage) (800 * passage) 0 100 149 840 .due] ++
    List.replicate 19 .zero

/-- Node 14 OPERATING, its section RUNNING, its bus side ready to send. -/
def operating : State :=
  { State.reset with
    power := true
    node := .operating
    resetLine := { level := true, held := 0 }
    straps := straps
    pins := { State.reset.pins with reset := true, straps := straps }
    cfg := config
    cfgGood := true
    lines :=
      { State.reset.lines with
        levels := { State.reset.lines.levels with motorRun := { level := true, held := 0 } } }
    tracker := { State.reset.tracker with sectionState := .running }
    comps := comps
    forecast :=
      { pending := { urgency := 197, dueCount := 2, earliestHours := 54 }
        announced := { urgency := 197, dueCount := 2, earliestHours := 54 } }
    planner := { State.reset.planner with standing := .granted }
    bus := { State.reset.bus with view := .idle, seenIdle := true }
    out := { lamp := .flash, lampPhase := 0, holdRequest := false } }

theorem test_operating_config : ConfigLaw operating := by decide
theorem test_operating_width : WidthLaw operating := by decide
theorem test_operating_tracker : TrackerLaw operating := by decide
theorem test_operating_motor : MotorLaw operating := by decide
theorem test_operating_table : TableLaw operating := by decide
theorem test_operating_capped : Capped operating := by decide
theorem test_operating_planner : PlannerLaw operating := by decide
theorem test_operating_maint : MaintLaw operating := by decide
theorem test_operating_queue : QueueLaw operating := by decide
theorem test_operating_ring : RingLaw operating := by decide
theorem test_operating_bus : BusLaw operating := by decide
theorem test_operating_output : OutputLaw operating := by decide
theorem test_operating_quiet : QuietLaw operating := by decide


/-! ### Piece tracking: the worked handoff of spec/02 -/

/-- Node 11: the class lines on lines 10 to 15, tag sequence 37. -/
def node11 : State :=
  { operating with
    straps := { straps with addr := 11 }
    cfg :=
      { config with
        classSource := .classLines
        functions :=
          functions.take 10 ++ (([0, 1, 2, 3, 4, 5] : List (Fin 6)).map LineFn.classLine) ++
            List.replicate 8 .masked }
    tracker := { operating.tracker with tagSeq := 37 } }

/-- Node 14 in the place of the handoff's node 12, with its inbound queue at 3,680 ms. -/
def handoff : State :=
  { operating with
    tracker :=
      { operating.tracker with
        inbound :=
          [{ source := 11, tag := 11303, thickness := 1, mass := 1, age := 1518 },
            { source := 11, tag := 11304, thickness := 3, mass := 3, age := 178 }] } }

/-- One piece, 11301 of classes 3 and 2, in the section. -/
def onePiece : State :=
  { operating with
    tracker := { operating.tracker with pieces := [{ tag := 11301, thickness := 3, mass := 2, age := 520 }] } }

/-- Eight pieces in the section. -/
def eightPieces : State :=
  { operating with
    tracker :=
      { operating.tracker with
        pieces := List.replicate 8 { tag := 11301, thickness := 3, mass := 2, age := 520 } } }

/-- The straight eye blocked for 301 ms. -/
def blockedEye : State := { operating with tracker := { operating.tracker with straightBlocked := 301 } }

/-- JAMMED, the motor stopped and every eye clear, the clear hold at 2 s. -/
def jammed : State :=
  { operating with
    lines := State.reset.lines
    tracker := { State.reset.tracker with sectionState := .jammed, clearHold := some 2000, jams := 1 } }

theorem test_arrival_assigns_its_tag :
    takesTo (.arrival 19) node11
      (fun t =>
        t.tracker.pieces == [{ tag := 11301, thickness := 3, mass := 2, age := 0 }] && t.tracker.tagSeq == 38 &&
          t.tracker.untagged == 1) = true := by decide

theorem test_arrival_sweeps_first :
    takesTo (.arrival 0) handoff
      (fun t =>
        t.tracker.pieces == [{ tag := 11304, thickness := 3, mass := 3, age := 0 }] && t.tracker.inbound == [] &&
          t.tracker.missing == 1) = true := by decide

theorem test_departure_hands_on_credit_and_passage :
    takesTo (.departure .straight) onePiece
      (fun t =>
        t.tracker.pieces == [] && t.handed == [.pieceCredit 3 2 .straight false] &&
          t.queue.waiting == [{ priority := 0, body := .passage 11301 3 2 .straight false }]) = true := by decide

theorem test_departure_of_nothing_is_a_phantom :
    takesTo (.departure .divert) operating
      (fun t =>
        t.tracker.phantom == 1 && t.handed == [.pieceCredit 2 1 .divert true] && t.queue.waiting == [] &&
          t.tracker.tagSeq == 0) = true := by decide

theorem test_passage_is_accepted :
    takesTo (.passageReceived 11 11301 3 2 .straight false) operating
      (fun t => t.tracker.inbound == [{ source := 11, tag := 11301, thickness := 3, mass := 2, age := 0 }]) =
      true := by decide

theorem test_passage_of_another_exit_is_ignored :
    takesTo (.passageReceived 11 11301 3 2 .divert false) operating (fun t => t == operating) = true := by decide

theorem test_jam_heard_purges_uncounted :
    takesTo (.jamReceived 11) handoff (fun t => t.tracker.inbound == [] && t.tracker.missing == 0) = true := by decide

theorem test_blocked_time_jams :
    takesTo .blockedJam blockedEye
      (fun t =>
        t.tracker.sectionState == .jammed && t.handed == [.jamSurcharge] && t.out.holdRequest &&
          t.queue.waiting == [{ priority := 0, body := .jam .blocked 0 0 }]) = true := by decide

theorem test_blocked_time_at_its_limit_does_not_jam :
    takesTo .blockedJam { operating with tracker := { operating.tracker with straightBlocked := 300 } }
      (fun t => t.tracker.sectionState == .running) = true := by decide

theorem test_transit_age_jams :
    takesTo .transitJam
      { operating with
        tracker := { operating.tracker with pieces := [{ tag := 11301, thickness := 3, mass := 2, age := 1201 }] } }
      (fun t => t.queue.waiting == [{ priority := 0, body := .jam .transit 1 11301 }]) = true := by decide

/-- Two pieces in the section, the second one overdue. -/
def overdueBehind : State :=
  { operating with
    tracker :=
      { operating.tracker with
        pieces :=
          [{ tag := 1, thickness := 0, mass := 0, age := 1300 }, { tag := 2, thickness := 0, mass := 0, age := 1201 }] } }

theorem test_overdue_head_jams_on_the_removal :
    takesTo (.departure .straight) overdueBehind
      (fun t =>
        t.tracker.sectionState == .jammed && t.tracker.jams == 1 && t.tracker.departed == 1 &&
          t.handed == [.pieceCredit 0 0 .straight false, .jamSurcharge] &&
          t.queue.waiting ==
            [{ priority := 0, body := .jam .transit 1 2 }, { priority := 0, body := .passage 1 0 0 .straight false }]) =
      true := by decide

theorem test_motor_stop_stops_the_section :
    takesTo .motorStop operating (fun t => t.tracker.sectionState == .stopped) = true := by decide

theorem test_motor_start_runs_the_section :
    takesTo .motorStart (after .motorStop operating)
      (fun t => t.tracker.sectionState == .running && t.handed == [.startSurcharge]) = true := by decide

theorem test_eye_clear_starts_the_clear_hold :
    takesTo (.eyeClear .straight) { jammed with tracker := { jammed.tracker with clearHold := none } }
      (fun t => t.tracker.clearHold == some 0) = true := by decide

theorem test_clear_hold_ends_the_jam :
    takesTo .clearHoldComplete jammed
      (fun t => t.tracker.sectionState == .stopped && !t.out.holdRequest) = true := by decide

/-! ### Run time: the worked second of spec/01 -/

/-- The last millisecond before MOTOR_RUN's filtered level follows its raw one, from a level and a run-ms. -/
def motorTurning (level : Bool) (runMs : Nat) : State :=
  { operating with
    pins := { operating.pins with lines := (List.replicate 24 false).set 6 (!level) }
    lines :=
      { operating.lines with
        runMs := runMs
        levels := { State.reset.lines.levels with motorRun := { level := level, held := 19 } } }
    tracker := { operating.tracker with sectionState := if level then .running else .stopped } }

/-- The state an idle step answers. -/
def idled (s : State) : State := s.idle

theorem test_run_time_at_the_filtered_fall :
    ((idled (motorTurning true 3599729)).lines.runMs == 3599730 &&
      (idled (motorTurning true 3599729)).pending == [.motorStop]) = true := by decide

theorem test_run_time_at_the_filtered_rise :
    ((idled (motorTurning false 3599730)).lines.runMs == 3599730 &&
      (idled (motorTurning false 3599730)).pending == [.motorStart]) = true := by decide

/-- Run-ms one short of a run-hour. -/
def hourEnding : State := { operating with lines := { operating.lines with runMs := 3599999, runHours := 9211 } }

theorem test_run_hour_boundary_turns_the_counters :
    ((idled hourEnding).lines.runMs == 0 && (idled hourEnding).lines.runHours == 9212 &&
      (idled hourEnding).handed == [.runHourBoundary] && (idled hourEnding).pending == []) = true := by decide

theorem test_run_hour_boundary_turns_them_once :
    takesTo .runHourBoundary (idled hourEnding)
      (fun t => t.lines.runMs == 0 && t.lines.runHours == 9212 && t.handed == []) = true := by decide +kernel

theorem test_reset_fall_loses_the_boundary :
    (after .resetFall (idled hourEnding)).account.records =
        Store.new.write (.node { NodeRecord.zero with runHours := 9212 }) ∧
      (after .resetFall (idled hourEnding)).handed = [] := ⟨rfl, rfl⟩

/-! ### Slip and pulses: the worked sample of spec/03 -/

theorem test_slip_of_the_worked_sample :
    ([(1200, 1482), (560, 690), (530, 655), (24, 31), (1200, 1510), (1200, 0), (1200, 0), (1200, 0), (1200, 0)].foldl
      (fun (slips : List Nat) (counts : Nat × Nat) => slips ++ [nextSlip (slips.getLastD 8) counts.1 320 counts.2]) []) =
      [9, 10, 10, 10, 7, 255, 441, 580, 685] := by decide

theorem test_slip_factor_of_the_worked_sample : ([8, 9, 10, 7, 255].map fun s => slipFactor s 64) =
    [264, 265, 266, 263, 511] := by decide

/-- Node 14 with s of 8 in slot 4, at the 250 ms period end of the worked sample. -/
def periodEnd : State :=
  { operating with
    lines :=
      { operating.lines with counts := [0, 0, 0, 1200, 1482, 0] ++ List.replicate 18 0 }
    comps := operating.comps.set 4 { operating.comp 4 with dyn := { (operating.comp 4).dyn with slip := 8 } } }

theorem test_period_end_measures_slip :
    takesTo .samplePeriodEnd periodEnd
      (fun t =>
        (t.comp 4).dyn.slip == 9 && (t.comp 9).dyn.slip == 0 && (t.comp 4).marked &&
          t.handed == [.distanceCredit 1200, .checkpoint] && t.lines.counts == List.replicate 24 0) = true := by decide

theorem test_pulses_saturate :
    takesTo (.pulseCounted 3)
      { operating with lines := { operating.lines with counts := List.replicate 24 65535 } }
      (fun t => t.lines.counts == List.replicate 24 65535) = true := by decide

/-! ### Wear: the worked cases of spec/04 -/

/-- The table after the worked forecast's boundary, slot 4 at s of 12. -/
def credited : State :=
  { operating with
    comps :=
      (operating.comps.set 4
          { record (1700000 * passage) (5700 * passage) 0 52 199 850 .due with
            dyn :=
              { DynRecord.zero with
                account := 1700000 * passage, slip := 12, rate := 5700 * passage, rateValid := true
                serviceCount := 2 } }).set
        7 (record 93952409500000 (375 * passage) 0 400 0 699 .normal) }

theorem test_piece_credit_of_the_worked_case :
    takesTo (.pieceCredit 3 2 .straight false) credited
      (fun t =>
        (t.comp 0).dyn.account == 12000000 * passage + 377487360 && (t.comp 4).dyn.account == 456340769177600 &&
          (t.comp 7).dyn.account == 93952786987360 && (t.comp 9).dyn.account == 900000 * passage + 566231040 &&
          (t.comp 12).dyn.account == 420000 * passage && (t.comp 4).dyn.hourDelta == 493977600) = true := by decide

theorem test_piece_credit_alerts_the_band :
    takesTo (.pieceCredit 3 2 .straight false) credited
      (fun t => t.queue.waiting == [{ priority := 167, body := .alert 7 .watch 700 400 }]) = true := by decide

theorem test_saturation_case :
    (([(6442450944, 156442450944, 582), (10737418240, 167179869184, 622), (273002787585, 440182656769, 1639),
          (273002787585, 536870911999, 1999), (6442450944, 536870911999, 1999)] :
          List (Nat × Nat × Nat)).foldl
        (fun (run : Component × Bool) (row : Nat × Nat × Nat) =>
          let c := run.1.credit config (component .belt .divert 1000 16 none) row.1
          (c, run.2 && c.dyn.account == row.2.1 && c.wear == row.2.2))
        (record 150000000000 (3 * passage) 0 147 0 558 .normal, true)) =
      ({ record 536870911999 (3 * passage) 386870911999 147 255 1999 .overlife with marked := true }, true) := by
  decide

theorem test_distance_credit :
    takesTo (.distanceCredit 1200) credited
      (fun t => (t.comp 12).dyn.account == 420000 * passage + 1200 * 10 * 4096) = true := by decide

theorem test_start_surcharge :
    takesTo .startSurcharge credited
      (fun t => (t.comp 12).dyn.account == 420000 * passage + passage) = true := by decide

theorem test_jam_surcharge_charges_the_common_path :
    takesTo .jamSurcharge credited
      (fun t => (t.comp 9).dyn.account == 900003 * passage && (t.comp 12).dyn.account == 420000 * passage) =
      true := by decide

theorem test_replace_of_the_worked_case :
    takesTo (.replace 4) credited
      (fun t =>
        (t.comp 4).dyn.account == 0 && (t.comp 4).hours == 350 && (t.comp 4).band == .normal &&
          (t.comp 4).dyn.serviceCount == 3 &&
          t.queue.waiting == [{ priority := 255, body := .alert 4 .normal 0 350 }]) = true := by decide +kernel

/-! ### Forecast: the worked boundary of spec/05 -/

theorem test_run_hour_of_the_worked_forecast :
    takesTo .runHourBoundary operating
      (fun t =>
        (t.comps.map fun c => (c.dyn.rate, c.hours, c.urgency)) ==
          [(9100 * passage, 3076, 0), (0, 0, 0), (0, 0, 0), (0, 0, 0), (5700 * passage, 52, 199), (0, 0, 0), (0, 0, 0),
              (375 * passage, 400, 0), (0, 0, 0), (2050 * passage, 1024, 0), (0, 0, 0), (0, 0, 0),
              (600 * passage, 133, 106)] ++
            List.replicate 19 (0, 0, 0)) = true := by decide

theorem test_run_hour_alerts_and_forecasts :
    takesTo .runHourBoundary operating
      (fun t =>
        t.queue.waiting == [{ priority := 149, body := .alert 12 .watch 840 133 }] &&
          t.forecast.pending == { urgency := 199, dueCount := 1, earliestHours := 52 } &&
          t.forecast.announced == { urgency := 197, dueCount := 2, earliestHours := 54 }) = true := by decide +kernel

theorem test_claim_refresh_queues_a_claim :
    takesTo .claimRefresh (after .runHourBoundary operating)
      (fun t =>
        t.queue.waiting.head? ==
          some { priority := 56, body := .claim { urgency := 199, dueCount := 1, earliestHours := 52 } }) =
      true := by decide +kernel

theorem test_claim_refresh_withdraws_once :
    takesTo .claimRefresh
      { operating with forecast := { operating.forecast with pending := State.reset.forecast.pending } }
      (fun t => t.queue.waiting == [{ priority := 255, body := .withdraw }] && t.planner.standing == .none) =
      true := by decide

/-! ### The transmit queue: the worked eviction of spec/07 -/

/-- A PASSAGE. -/
def pieceNotice : Notice := { priority := 0, body := .passage 0 0 0 .straight false }

/-- The REPORT and the notices of the worked eviction, in the order in which they are handed over. -/
def evictionStart : State :=
  { operating with
    straps := { straps with addr := 12 }
    query := some { querier := 60, kind := .component, arg := 4 } }.offerAll
    [{ priority := 0, body := .report 60 [] }, pieceNotice, pieceNotice,
      { priority := 167, body := .alert 7 .watch 700 400 }, pieceNotice, pieceNotice, pieceNotice,
      { priority := 115, body := .claim { urgency := 140, dueCount := 1, earliestHours := 100 } }]

theorem test_headers_of_the_worked_eviction :
    (evictionStart.queue.waiting.map fun n => n.header 12) =
      [16396, 16396, 16396, 16396, 16396, 56524, 76236, 98316] := by decide

theorem test_worked_eviction :
    (let s1 := evictionStart.offer pieceNotice
     let s2 := s1.offerAll
       [{ priority := 149, body := .alert 12 .watch 840 133 },
         { priority := 115, body := .claim { urgency := 140, dueCount := 1, earliestHours := 100 } },
         { priority := 0, body := .jam .blocked 0 0 }, { priority := 175, body := .alert 9 .watch 700 400 },
         withdrawNotice]
     s1.query == none && s1.queue.dropped == 1 && s2.queue.dropped == 4 &&
       (s2.queue.waiting.map fun n => n.header 12) ==
         [12, 16396, 16396, 16396, 16396, 16396, 16396, 65484]) = true := by decide

/-! ### Claims and windows: the worked view of spec/08 and the contention of spec/09 -/

theorem test_view_of_node_14 :
    takesTo (.claimReceived 11 199 1 52) (after (.claimReceived 17 230 1 9) { operating with
        forecast := { operating.forecast with announced := { urgency := 199, dueCount := 1, earliestHours := 52 } } })
      (fun t =>
        t.planner.view == [{ address := 17, urgency := 230, age := 0 }, { address := 11, urgency := 199, age := 0 }] &&
          t.planner.standing == .waiting) = true := by decide

theorem test_claim_that_contradicts_itself :
    takesTo (.claimReceived 17 230 0 9) operating (fun t => t == operating) = true := by decide

/-- Node 14 with node 17 and 11 in its view, the entry of 11 aged out. -/
def viewed : State :=
  { operating with
    planner :=
      { operating.planner with
        view :=
          [{ address := 17, urgency := 230, age := 60000 }, { address := 11, urgency := 199, age := 100000 }]
        standing := .waiting } }

theorem test_withdrawal_frees_a_place :
    takesTo (.withdrawReceived 17) viewed
      (fun t => t.planner.view.length == 1 && t.planner.standing == .granted) = true := by decide

theorem test_entry_ages_out :
    takesTo (.claimEntryAgeOut 11) viewed
      (fun t => t.planner.view == [{ address := 17, urgency := 230, age := 60000 }]) = true := by decide

theorem test_renewed_entry_stays :
    takesTo (.claimEntryAgeOut 17) viewed (fun t => t.planner.view == viewed.planner.view) = true := by decide

/-- Node 14 before the stop of the worked contention: announced and pending urgency 199, window count 39. -/
def claimant : State :=
  { operating with
    forecast :=
      { pending := { urgency := 199, dueCount := 1, earliestHours := 52 }
        announced := { urgency := 199, dueCount := 1, earliestHours := 52 } }
    planner := { operating.planner with windowCount := 39 } }

/-- Its window open, its TAKEN queued. -/
def contending : State := after .maintRise claimant

theorem test_window_opens :
    takesTo .maintRise claimant
      (fun t =>
        t.planner.window == .contending && t.planner.windowCount == 40 &&
          (t.queue.waiting.map fun n => n.header 14) == [36366]) = true := by decide

theorem test_second_taken_defers :
    takesTo (.takenHeard 11) (after (.takenHeard 17) contending)
      (fun t => t.planner.window == .deferred && t.planner.takenSet == [17, 11] && t.queue.waiting == []) =
      true := by decide

theorem test_taken_before_maint_starts_the_hold :
    takesTo (.takenHeard 17) claimant
      (fun t => t.planner.window == .pending && t.planner.takenSet == [17] && t.planner.pendingHold == some 0) =
      true := by decide

theorem test_window_without_a_claim :
    takesTo .maintRise
      { claimant with forecast := { claimant.forecast with pending := { urgency := 120, dueCount := 0, earliestHours := 65535 } } }
      (fun t => t.planner.window == .standby && (t.queue.waiting.map fun n => n.header 14) == [65486]) =
      true := by decide

theorem test_maint_fall_takes_the_taken_back :
    takesTo .maintFall contending
      (fun t => t.planner.window == .closed && t.queue.waiting == [] && t.queue.dropped == 0) = true := by decide

/-- A PENDING hold run out. -/
def holdOver : State :=
  { claimant with
    planner := { claimant.planner with window := .pending, takenSet := [17, 14], pendingHold := some 5000 } }

theorem test_pending_hold_expires :
    takesTo .pendingHoldExpiry holdOver (fun t => t.planner.window == .closed && t.planner.takenSet == []) =
      true := by decide

/-! ### Work orders: the worked list of spec/10, window 41 -/

/-- A component of the worked list. -/
def listed (wear urgency serviceCount : Nat) (band : Band) : Component :=
  { record 0 0 0 50 urgency wear band with dyn := { DynRecord.zero with serviceCount := serviceCount } }

/-- Node 14 in CONTENDING in window 41 with its TAKEN in transmission; slots 3, 5, 8, 17 and 21 of the worked list. -/
def taking : State :=
  { claimant with
    cfg :=
      { config with
        slots :=
          (List.range 32).map fun i =>
            if i = 3 ∨ i = 5 ∨ i = 8 ∨ i = 17 ∨ i = 21 then component .pinchRoller .common 1500000 16 none
            else .blank }
    comps :=
      (((((State.reset.comps.set 3 (listed 1012 255 1 .overlife)).set 5 (listed 780 140 3 .due)).set 8
            (listed 850 199 2 .due)).set 17 (listed 640 0 0 .normal)).set 21 (listed 910 199 0 .due))
    planner :=
      { claimant.planner with
        window := .contending, windowCount := 41
        takenValues := some { urgency := 199, dueCount := 4, windowCount := 41 } }
    orders := { State.reset.orders with head := 5, tail := 5 }
    bus :=
      { operating.bus with
        view := .busy
        activity :=
          .sending { priority := 56, body := .taken { urgency := 199, dueCount := 4, windowCount := 41 } } } }

/-- In SERVICING, the orders of window 41 appended. -/
def servicing : State := after (.frameComplete true) taking

theorem test_completed_taken_appends_orders :
    takesTo (.frameComplete false) taking
      (fun t =>
        t.planner.window == .servicing && t.planner.takenSet == [14] && t.orders.head == 5 && t.orders.tail == 9 &&
          t.orders.openCount == 4 && t.out.lamp == .on &&
          (((t.orders.ring.drop 5).take 4).map fun o => (o.slot, o.wearAtIssue, o.urgencyAtIssue, o.windowAtIssue)) ==
            [(3, 1012, 255, 41), (8, 850, 199, 41), (21, 910, 199, 41), (5, 780, 140, 41)]) = true := by decide

theorem test_confirm_is_one_of_two_orders :
    exec .confirm servicing = done (servicing.countChoice.confirmHead (Config.replaceFirst 0)) := rfl

/-- The head order confirmed, its REPLACE handed on. -/
def confirmed : State := servicing.confirmHead false

theorem test_confirm_closes_the_head :
    (confirmed.handed == [.replace 3] && confirmed.orders.head == 6 && confirmed.orders.openCount == 3 &&
      confirmed.queue.waiting == [{ priority := 255, body := .order 5 3 .done 41 2 }]) = true := by decide

theorem test_confirm_with_its_replace_first :
    ((servicing.confirmHead true).handed == [] && ((servicing.confirmHead true).comp 3).dyn.serviceCount == 2 &&
      (servicing.confirmHead true).queue.waiting ==
        [{ priority := 255, body := .alert 3 .normal 0 65535 },
          { priority := 255, body := .order 5 3 .done 41 2 }]) = true := by decide +kernel

theorem test_decline_leaves_the_component :
    takesTo .decline confirmed
      (fun t =>
        t.orders.head == 7 && t.orders.openCount == 2 && (t.comp 8).urgency == 199 && !(t.comp 8).openOrder &&
          t.queue.waiting.getLast? == some { priority := 255, body := .order 6 8 .declined 41 2 }) = true := by decide

theorem test_press_outside_servicing_is_ignored :
    takesTo .decline operating (fun t => t == operating) = true := by decide

/-! ### The line bus: the worked arbitration of spec/06 -/

/-- The CLAIM of announced urgency 199. -/
def claim199 : Notice := { priority := 56, body := .claim { urgency := 199, dueCount := 1, earliestHours := 52 } }

/-- Node 14 with its CLAIM waiting. -/
def waitingClaim : State := { operating with queue := { operating.queue with waiting := [claim199] } }

/-- Node 14 with its CLAIM in transmission and a fault count of 3. -/
def sendingClaim : State :=
  { operating with bus := { operating.bus with view := .busy, activity := .sending claim199, faultCount := 3 } }

/-- Its cells up to the end of the source field, from the worked arbitration. -/
theorem test_header_cells_of_node_14 :
    ((claim199.cells 14).take 18 ==
        [false, false, true, true, false, false, true, true, true, false, false, false, false, false, true, true, true,
          false] && (claim199.cells 14).length == 76) = true := by decide

/-- The check word of the polynomial of R102 over the digits 1 to 9, a figure known for this polynomial and start. -/
theorem test_check_word :
    checkWord (payloadBits [0x31, 0x32, 0x33, 0x34, 0x35, 0x36, 0x37, 0x38, 0x39]) = 0x29B1#16 := by decide +kernel

theorem test_frame_start :
    takesTo .frameStart waitingClaim
      (fun t => t.bus.activity == .sending claim199 && t.bus.view == .busy && t.queue.waiting == []) = true := by decide

theorem test_frame_join_needs_nine_bit_times :
    (takesTo (.frameJoin 9) waitingClaim (fun t => t.bus.activity == .sending claim199) &&
      takesTo (.frameJoin 8) waitingClaim (fun t => t.bus.activity == .receiving)) = true := by decide

theorem test_arbitration_lost_at_cell_15 :
    (takesTo (.arbitrationLost 15) sendingClaim
        (fun t => t.queue.waiting == [claim199] && t.bus.activity == .receiving && t.bus.faultCount == 3) &&
      takesTo (.arbitrationLost 12) sendingClaim (fun t => t == sendingClaim)) = true := by decide

/-- A PASSAGE in transmission and two that joined later: the order of equal headers is kept. -/
theorem test_lost_passage_goes_before_its_equals :
    takesTo (.arbitrationLost 17)
      { sendingClaim with
        straps := { straps with addr := 13 }
        bus := { sendingClaim.bus with activity := .sending pieceNotice }
        queue :=
          { operating.queue with
            waiting := [{ pieceNotice with body := .passage 1 0 0 .straight false },
              { pieceNotice with body := .passage 2 0 0 .straight false }] } }
      (fun t =>
        t.queue.waiting ==
          [pieceNotice, { pieceNotice with body := .passage 1 0 0 .straight false },
            { pieceNotice with body := .passage 2 0 0 .straight false }]) = true := by decide

theorem test_thirty_second_abort_mutes :
    takesTo (.frameAbort 40) { sendingClaim with bus := { sendingClaim.bus with faultCount := 31 } }
      (fun t =>
        t.bus.mode == .mute && t.bus.faultCount == 32 && t.bus.muteMs == some 0 && t.queue.waiting == [claim199]) =
      true := by decide

theorem test_completed_claim_leaves :
    takesTo (.frameComplete true) sendingClaim
      (fun t => t.queue.waiting == [] && t.bus.faultCount == 2 && t.bus.activity == .waiting) = true := by decide

theorem test_bus_view :
    (takesTo .busBusy operating (fun t => t.bus.view == .busy && t.bus.activity == .receiving) &&
      takesTo .busIdle (after .busBusy operating) (fun t => t.bus.view == .idle && t.bus.activity == .waiting)) =
      true := by decide

/-- MUTE, its second over. -/
def muted : State :=
  { operating with bus := { operating.bus with mode := .mute, faultCount := 32, muteMs := some 1000 } }

theorem test_mute_ends :
    takesTo .muteEnd muted (fun t => t.bus.mode == .active && t.bus.faultCount == 0) = true := by decide

theorem test_clash_silences :
    takesTo (.frameReceived (frameCells 3 255 14 0 [])) waitingClaim
      (fun t => t.bus.mode == .silenced && t.queue.waiting == [] && t.out.lamp == .fault) = true := by decide +kernel

theorem test_claim_frame_is_heard :
    takesTo (.frameReceived (frameCells 3 56 11 0 [199, 1, 0, 52])) operating
      (fun t =>
        t.planner.view == [{ address := 11, urgency := 199, age := 0 }] && t.handed == [] && t.bus.witness) =
      true := by decide +kernel

theorem test_taken_frame_defers_before_the_next_start :
    takesTo (.frameReceived (frameCells 2 25 17 0 [230, 1, 0, 40])) { contending with cfg := { config with k := 1 } }
      (fun t => t.planner.window == .deferred && t.queue.waiting == []) = true := by decide +kernel

/-! ### Queries -/

theorem test_identity :
    takesTo (.queryIdentity 60 0) { operating with account := { operating.account with label := 0x1234, labelCommitted := true, commissionCount := 258 } }
      (fun t =>
        t.queue.waiting == [{ priority := 0, body := .report 60 [0x20, 0x3C, 0x01, 14, 1, 0x12, 0x34, 1, 2] }] &&
          t.bus.witness) = true := by decide

theorem test_section :
    takesTo (.querySection 60 0) operating
      (fun t => t.queue.waiting == [{ priority := 0, body := .report 60 [0x40, 0x31, 0x01, 197, 2, 0, 0, 0, 0, 0, 0] }]) =
      true := by decide

theorem test_counts_dropped :
    takesTo (.queryCounts 60 1) { operating with queue := { operating.queue with dropped := 4 } }
      (fun t => t.queue.waiting == [{ priority := 0, body := .report 60 [0x61, 0, 0, 0, 0, 0, 4] }]) = true := by decide

theorem test_component :
    takesTo (.queryComponent 60 4) operating
      (fun t =>
        t.queue.waiting == [{ priority := 0, body := .report 60 [0x84, 0x08, 3, 82, 0, 54, 197, 0, 0, 0] }]) =
      true := by decide

theorem test_order :
    takesTo (.queryOrder 60 5) servicing
      (fun t =>
        t.queue.waiting == [{ priority := 0, body := .report 60 [0xA5, 3, 1, 3, 244, 255, 0, 41, 1, 0, 0] }]) =
      true := by decide

theorem test_list :
    takesTo (.queryList 60 0) servicing
      (fun t => t.queue.waiting == [{ priority := 0, body := .report 60 [0xC0, 5, 9, 4] }]) = true := by decide

theorem test_second_query_is_refused :
    takesTo (.queryCommission 60 0) (after (.queryCommission 60 0) operating)
      (fun t => !t.bus.witness && t.queue.waiting == [{ priority := 0, body := .report 60 [0xE0, 0, 0] }]) =
      true := by decide

/-! ### Commissioning -/

/-- Node 14 in COMMISSIONING, a new part. -/
def commissioning : State :=
  { State.reset with
    power := true, node := .commissioning, straps := toolStraps, resetLine := { level := true, held := 0 } }

theorem test_line_a_clamps :
    takesTo (.lineA 9 0 1000 500) commissioning
      (fun t =>
        t.account.staging.k == 8 && t.account.staging.hz == 1 && t.account.staging.tWatch == 999 &&
          t.account.staging.tHold == 1000 && t.account.stagedItems == 1) = true := by decide

theorem test_line_b_refuses_a_code :
    takesTo (.lineB 64 2 1 3 0 1) commissioning (fun t => t == commissioning) = true := by decide

theorem test_line_b_stages :
    takesTo (.lineB 64 9 1 1 1 3) commissioning
      (fun t =>
        t.account.staging.defThickness == 7 && t.account.staging.classSource == .classLines &&
          t.account.staging.announceDivert && t.account.staging.g == 64) = true := by decide

theorem test_line_c_clamps :
    takesTo (.lineC 0 3000 0) commissioning
      (fun t =>
        t.account.staging.tTransit == 50 && t.account.staging.tBlock == 2000 && t.account.staging.tHand == 100) =
      true := by decide

theorem test_factors_unpack :
    takesTo (.factors 1 0x00401008040200C0FFFF#80) commissioning
      (fun t => t.account.staging.massFactors == [1, 1, 2, 4, 8, 12, 63, 1023]) = true := by decide

theorem test_upstream_clamps :
    takesTo (.upstream 1 1 200 1) commissioning
      (fun t => t.account.staging.upstream[1]? == some { inUse := true, address := 62, exit := .divert }) =
      true := by decide

theorem test_input :
    takesTo (.input 23 15) commissioning (fun t => t.account.staging.functions[23]? == some (.classLine 5)) =
      true := by decide

theorem test_belt_has_no_tach_line :
    takesTo (.slot 31 2 0 0 16 4) commissioning
      (fun t =>
        t.account.staging.slot 31 ==
          { SlotConfig.blank with present := true, kind := .belt, weight := 16, life := 1 }) = true := by decide

theorem test_slot_b_and_clear :
    takesTo (.clear 31) (after (.slotB 31 0 7 9) (after (.slot 31 2 0 5 16 255) commissioning))
      (fun t =>
        t.account.staging.slot 31 ==
          { SlotConfig.blank with kind := .belt, weight := 16, life := 5, distance := 7, start := 9 }) =
      true := by decide

theorem test_second_label_is_refused :
    takesTo (.label 7) (after (.label 5) commissioning)
      (fun t => t.account.staging.label == 5 && t.account.stagedItems == 1 && !t.bus.witness) = true := by decide

theorem test_commit_of_the_blank_configuration_fails :
    takesTo .commit commissioning (fun t => t.account.lastCommit == 2 && t.account.writes == []) = true := by decide

/-- The worked configuration staged. -/
def staged : State := { commissioning with account := { commissioning.account with staging := config } }

theorem test_commit_writes :
    takesTo .commit staged
      (fun t =>
        t.account.writes.take 3 == [.config config, .component 0 .zero, .component 4 .zero] &&
          t.account.writes.length == 39 && t.account.commissionCount == 1) = true := by decide

theorem test_commit_writes_done :
    takesTo .commitWritesDone (after .commit staged) (fun t => t.account.writes == []) = true := by decide

/-! ### Power, reset and start -/

theorem test_power_on :
    takesTo (.powerOn { straps with addr := 63 } true) State.reset
      (fun t => t.node == .starting && t.bus.mode == .silenced && t.resetLine.level) = true := by decide

/-- A store with the worked configuration and slot 4's record written. -/
def stocked : Store := (Store.new.write (.config config)).write (.component 4 (operating.comp 4).dyn)

/-- Node 14 in STARTING with that store. -/
def starting : State :=
  { State.reset with
    power := true
    straps := straps
    resetLine := { level := true, held := 0 }
    account := { State.reset.account with records := stocked } }

/-- That store as it is read. -/
def stockedFound : FoundStore :=
  { config := .good config, components := (List.replicate 32 .absent).set 4 (.good (operating.comp 4).dyn)
    orders := List.replicate 32 .absent, node := .absent }

theorem test_the_store_reads_back : stocked.found = stockedFound := by
  simp [stocked, stockedFound, Store.found, Store.write, Store.new, List.map_set]
  exact ⟨rfl, rfl⟩

theorem test_start_takes_up_the_store :
    exec (.startComplete [] 0x40) starting = done (starting.startWith stocked stockedFound 0x40) := by
  rw [← test_the_store_reads_back]
  rfl

theorem test_start_loads_a_good_component :
    ((starting.startWith stocked stockedFound 0x40).node == .operating &&
      (starting.startWith stocked stockedFound 0x40).tracker.sectionState == .running &&
      ((starting.startWith stocked stockedFound 0x40).comp 4).hours == 53) = true := by decide

theorem test_start_with_a_bad_component :
    (let t :=
       (starting.startWith stocked { stockedFound with components := stockedFound.components.set 4 .bad } 0).settle
     t.node == .operating && (t.comp 4).dyn.account == 2000000 * passage && (t.comp 4).wear == 1000 &&
       (t.comp 4).dyn.lost && t.forecast.announced == { urgency := 255, dueCount := 1, earliestHours := 0 } &&
       t.out.holdRequest && t.out.lamp == .flash && t.queue.waiting == []) = true := by decide +kernel

theorem test_start_without_a_configuration :
    ((starting.startWith stocked { stockedFound with config := .bad } 0).node == .unconfigured) = true := by decide

/-- Damage to slot 4's record that its check word gives away. -/
def seenDamage : StoreDamage :=
  { record := .component 4 .zero, check := recordCheck (Config.componentBytes .zero) + 1 }

theorem test_damage_is_seen_at_the_start :
    (stocked.damaged [seenDamage]).found.components[4]? = some .bad := by
  have h : ¬recordCheck (Config.componentBytes .zero) + 1 = recordCheck (Config.componentBytes .zero) := by
    simp
  simp [Store.damaged, Store.damage, seenDamage, StoreWrite.lawful, DynRecord.zero, Config.deltaTop, Store.found,
    stocked, Store.write, Store.new, Config.slots, sealed, Stored.spoil]
  simp [Stored.found, DynRecord.zero] at h ⊢

/-- Node 14 with slot 4's record marked changed and a checkpoint handed on. -/
def checkpointDue : State :=
  { operating with
    comps := operating.comps.set 4 { operating.comp 4 with marked := true }
    handed := [.checkpoint] }

theorem test_checkpoint_writes_the_marked :
    (after .checkpoint checkpointDue).account.records = Store.new.write (.component 4 (operating.comp 4).dyn) := rfl

theorem test_checkpoint_clears_the_mark :
    takesTo .checkpoint checkpointDue (fun t => !(t.comp 4).marked && t.handed == [] && t.account.due == []) =
      true := by decide

/-- The checkpoint begun, slot 4's record still to write. -/
def checkpointBegun : State := idled checkpointDue

theorem test_handed_checkpoint_takes_the_marked :
    (checkpointBegun.account.due == [.component 4] && (checkpointBegun.comp 4).marked && checkpointBegun.handed == []) =
      true := by decide

theorem test_idle_step_writes_one_record :
    (idled checkpointBegun).account.records = Store.new.write (.component 4 (operating.comp 4).dyn) := rfl

theorem test_power_loss_before_the_write : (after (.powerLoss 0) checkpointBegun).account.records = Store.new := rfl

theorem test_power_loss_leaves_the_first_writes_of_a_commit :
    (after (.powerLoss 2) (after .commit staged)).account.records =
      (Store.new.write (.config config)).write (.component 0 .zero) := rfl

theorem test_reset_fall_checkpoints :
    takesTo .resetFall checkpointDue
      (fun t => t.node == .starting && t.tracker == State.reset.tracker && !t.resetLine.level) = true := by decide

theorem test_reset_fall_writes_the_marked :
    (after .resetFall checkpointDue).account.records = Store.new.write (.component 4 (operating.comp 4).dyn) := rfl

theorem test_reset_rise_reads_the_straps :
    takesTo (.resetRise toolStraps) (after .resetFall operating)
      (fun t => t.straps == toolStraps && t.resetLine.level && t.node == .starting) = true := by decide

/-! ### Steps -/

theorem test_idle_step_passes_a_millisecond :
    (match step onePiece with
     | .next t => (t.tracker.pieces.map fun p => p.age) == [521] && t.lines.runMs == 1 && t.lines.sampleMs == 1
     | .fault _ => false
     | .refused _ => false) = true := by decide

theorem test_no_table_word_spells_a_command : decodeTableWord 16 0 = none := by decide

/-! ### Witnesses: for each statement with hypotheses, a state and operands that meet them, clause by clause -/

theorem witness_EmptyQueueTakesWorkOrAMillisecond :
    (checkpointBegun.pending = [] ∧ checkpointBegun.node = .operating ∧ checkpointBegun.account.due = [.component 4]) ∧
      (checkpointDue.pending = [] ∧ checkpointDue.node = .operating ∧ checkpointDue.account.due = [] ∧
        checkpointDue.handed = [.checkpoint]) ∧
      ((after .motorStart operating).pending = [] ∧ (after .motorStart operating).handed = [.startSurcharge] ∧
        (after .motorStart operating).account.due = []) ∧
      (hourEnding.pending = [] ∧ hourEnding.handed = [] ∧ hourEnding.power = true ∧ hourEnding.node = .operating ∧
        hourEnding.account.due = [] ∧ hourEnding.lines.levels.motorRun.level = true ∧
        hourEnding.lines.runMs + 1 = 3600000) ∧
      (State.reset.pending = [] ∧ State.reset.handed = [] ∧ State.reset.power = false ∧ State.reset.node ≠ .operating) ∧
      (commissioning.pending = [] ∧ commissioning.handed = [] ∧ commissioning.power = true ∧
        commissioning.node ≠ .operating) ∧
      (operating.pending = [] ∧ operating.handed = [] ∧ operating.power = true ∧ operating.node = .operating ∧
        operating.account.due = []) := by
  decide

theorem witness_CommandsNotTakenChangeNothing :
    commissioning.node ≠ .operating ∧ (0 : Addr).toNat = 0 ∧ (63 : Addr).toNat = 63 ∧ (14 : Addr) = operating.straps.addr := by
  decide

theorem witness_StartingReadsTheStraps :
    State.reset.power = false ∧ ((after .resetFall operating).power = true ∧ (after .resetFall operating).resetLine.level = false) ∧
      operating.power = true ∧ operating.resetLine.level = true := by
  decide

theorem witness_commissioning_laws : ConfigLaw commissioning ∧ WidthLaw commissioning := by
  refine ⟨?_, ?_⟩ <;> decide

theorem witness_ResetFallWritesAndClears :
    (checkpointDue.power = true ∧ checkpointDue.node = .operating ∧ WidthLaw checkpointDue ∧ ConfigLaw checkpointDue) ∧
      (commissioning.power = true ∧ commissioning.node ≠ .operating) ∧
      (State.reset.power = false ∧ WidthLaw State.reset ∧ ConfigLaw State.reset) := by
  refine ⟨⟨?_, ?_, ?_, ?_⟩, ?_, ?_, ?_, ?_⟩ <;> decide

theorem witness_PowerLossLeavesTheStore :
    ((after .commit staged).power = true ∧ (after .commit staged).account.writes.length = 39) ∧
      State.reset.power = false := by
  decide

theorem witness_StartLeavesForTheStateOfTheTable :
    starting.power = true ∧ starting.node = .starting ∧ starting.resetLine.level = true ∧
      (starting.account.records.damaged []).found.configGood = true ∧ starting.straps.commission = false ∧
      { starting with straps := toolStraps }.straps.commission = true := by
  refine ⟨rfl, rfl, rfl, ?_, rfl, rfl⟩
  change stocked.found.configGood = true
  rw [test_the_store_reads_back]
  rfl

/-- An open order for slot 4 at the ring's first position. -/
def openOrder : OrderRecord :=
  { slot := 4, action := .replace, wearAtIssue := 850, urgencyAtIssue := 197, windowAtIssue := 40, status := .opened
    windowAtClose := 0 }

/-- The store with that order, and the node record that holds it. -/
def stockedList : Store := (stocked.write (.order 0 openOrder)).write (.node { NodeRecord.zero with tail := 1 })

/-- A start from another store. -/
def startingFrom (records : Store) : State :=
  { starting with account := { starting.account with records := records } }

/-- A start from a lawful store meets the laws. -/
theorem starting_laws {records : Store} (hc : records.config = sealed Config.configurationBytes config)
    (hr : records.InRange) : ConfigLaw (startingFrom records) ∧ WidthLaw (startingFrom records) := by
  have hl : ConfigLaw (startingFrom Store.new) := by decide
  have hw : WidthLaw (startingFrom Store.new) := by decide
  obtain ⟨h1, _, h3⟩ := hl
  refine ⟨⟨h1, ?_, h3⟩, ?_⟩
  · change records.config.meets _ _ = true
    rw [hc]
    exact sealed_meets (by decide)
  · obtain ⟨w1, w2, w3, w4, w5, w6, w7, w8, w9, w10, w11, w12, w13, w14, w15, w16, _⟩ := hw
    exact ⟨w1, w2, w3, w4, w5, w6, w7, w8, w9, w10, w11, w12, w13, w14, w15, w16, hr⟩

theorem stocked_inRange : stocked.InRange :=
  Store.write_inRange (Store.write_inRange (st := Store.new) (by decide) (by decide)) (by decide)

theorem stockedList_inRange : stockedList.InRange :=
  Store.write_inRange (Store.write_inRange stocked_inRange (by decide)) (by decide)

theorem witness_StartTakesUpTheStoredRecords :
    (starting.power = true ∧ starting.node = .starting ∧ starting.resetLine.level = true ∧
        starting.straps.commission = false) ∧
      (stocked.config = stored Config.configurationBytes config ∧ ConfigLaw (startingFrom stocked) ∧
        WidthLaw (startingFrom stocked) ∧
        stocked.components.getD 4 .absent = stored Config.componentBytes (operating.comp 4).dyn ∧
        stocked.components.getD 0 .absent = .absent ∧ (config.slot 4).present = true ∧
        (config.slot 1).present = false) ∧
      (stockedList.config = stored Config.configurationBytes config ∧ ConfigLaw (startingFrom stockedList) ∧
        WidthLaw (startingFrom stockedList) ∧
        stockedList.node = stored Config.nodeBytes { NodeRecord.zero with tail := 1 } ∧
        stockedList.orders.getD 0 .absent = stored Config.orderBytes openOrder ∧ openOrder.status = .opened ∧
        (config.slot openOrder.slot).present = true) :=
  ⟨⟨rfl, rfl, rfl, rfl⟩,
    ⟨rfl, (starting_laws rfl stocked_inRange).1, (starting_laws rfl stocked_inRange).2, rfl, rfl, rfl, rfl⟩,
    ⟨rfl, (starting_laws rfl stockedList_inRange).1, (starting_laws rfl stockedList_inRange).2, rfl, rfl, rfl, rfl⟩⟩

/-- The clauses of a bad record and of a list that breaks its law: damage that the check word gives away, and an open
order behind a node record that says there is none. -/
theorem witness_StartTakesUpTheStoredRecords_broken :
    ((stocked.damaged [seenDamage]).config = stored Config.configurationBytes config ∧
        ((stocked.damaged [seenDamage]).components.getD 4 .absent).Bad Config.componentBytes) ∧
      ((stocked.write (.order 0 openOrder)).config = stored Config.configurationBytes config ∧
        (stocked.write (.order 0 openOrder)).node = .absent ∧
        (stocked.write (.order 0 openOrder)).orders.getD 0 .absent = stored Config.orderBytes openOrder) := by
  refine ⟨⟨rfl, ?_⟩, rfl, rfl, rfl⟩
  refine ⟨.zero, recordCheck (Config.componentBytes .zero) + 1, rfl, ?_⟩
  simp [recordCheck]

/-- The start of that store into COMMISSIONING, and of a new part into UNCONFIGURED. -/
theorem witness_StartTakesUpTheStoredRecords_commissioning :
    ((startingFrom stockedList).node = .starting ∧
        ConfigLaw { startingFrom stockedList with straps := toolStraps } ∧
        WidthLaw { startingFrom stockedList with straps := toolStraps } ∧ toolStraps.commission = true) ∧
      ((startingFrom Store.new).node = .starting ∧ ConfigLaw (startingFrom Store.new) ∧
        WidthLaw (startingFrom Store.new) ∧ Store.new.config = .absent) :=
  ⟨⟨rfl, (starting_laws rfl stockedList_inRange).1, (starting_laws rfl stockedList_inRange).2, rfl⟩,
    ⟨rfl, by decide, by decide, rfl⟩⟩

theorem witness_CheckpointStoresEveryMarkedRecord :
    checkpointDue.node = .operating ∧ WidthLaw checkpointDue ∧ (checkpointDue.comp 4).marked = true := by
  refine ⟨?_, ?_, ?_⟩ <;> decide

theorem witness_ArrivalMakesAPieceRecord :
    (handoff.node = .operating ∧ handoff.tracker.sectionState ≠ .jammed ∧ handoff.tracker.pieces.length < 8 ∧
        (handoff.tracker.inbound.filter fun e => decide (e.age ≤ handoff.cfg.tHand)) =
          [{ source := 11, tag := 11304, thickness := 3, mass := 3, age := 178 }]) ∧
      (node11.node = .operating ∧ node11.tracker.sectionState ≠ .jammed ∧ node11.tracker.pieces.length < 8 ∧
        node11.tracker.inbound = [] ∧ node11.cfg.classSource = .classLines ∧
        node11.cfg.assigned (.classLine 0) = true) ∧
      (eightPieces.node = .operating ∧ eightPieces.tracker.sectionState ≠ .jammed ∧
        eightPieces.tracker.pieces.length = 8) := by
  refine ⟨?_, ?_, ?_⟩ <;> decide

theorem witness_DepartureRemovesTheOldestRecord :
    (onePiece.node = .operating ∧ onePiece.tracker.sectionState ≠ .jammed ∧
        onePiece.cfg.assigned (exitFn .straight) = true ∧
        onePiece.tracker.pieces = [{ tag := 11301, thickness := 3, mass := 2, age := 520 }]) ∧
      (overdueBehind.node = .operating ∧ overdueBehind.tracker.sectionState = .running ∧
        overdueBehind.cfg.tTransit < 1201 ∧ overdueBehind.tracker.pieces.length = 2) ∧
      (operating.node = .operating ∧ operating.tracker.sectionState ≠ .jammed ∧
        operating.cfg.assigned (exitFn .divert) = true ∧ operating.tracker.pieces = []) ∧
      { operating with cfg := Configuration.blank }.cfg.assigned (exitFn .divert) = false := by
  refine ⟨?_, ?_, ?_, ?_⟩ <;> decide

theorem witness_EyeClearEndsItsBlockedTime :
    (operating.node = .operating ∧ operating.cfg.assigned (eyeFn .divert) = true ∧
        operating.tracker.sectionState ≠ .jammed) ∧
      (jammed.node = .operating ∧ jammed.cfg.assigned (eyeFn .entry) = true ∧ jammed.tracker.sectionState = .jammed) := by
  decide

theorem witness_MotorEdgesMoveTheSection :
    (operating.node = .operating ∧ operating.tracker.sectionState ≠ .jammed) ∧
      (jammed.node = .operating ∧ jammed.tracker.sectionState = .jammed) := by
  decide

theorem witness_OverdueAgesJamTheSection :
    (blockedEye.node = .operating ∧ blockedEye.tracker.sectionState = .running ∧
        blockedEye.cfg.tBlock < blockedEye.tracker.straightBlocked) ∧
      (overdueBehind.node = .operating ∧ overdueBehind.tracker.sectionState = .running ∧
        (∃ p, overdueBehind.tracker.pieces.head? = some p ∧ overdueBehind.cfg.tTransit < p.age)) ∧
      (jammed.node = .operating ∧ jammed.tracker.sectionState ≠ .running) := by
  refine ⟨?_, ⟨?_, ?_, _, rfl, ?_⟩, ?_⟩ <;> decide

theorem witness_JammedWaitsForItsClearHold :
    (jammed.node = .operating ∧ jammed.tracker.sectionState = .jammed ∧ jammed.tracker.clearHold = some 2000 ∧
        jammed.clearCondition = true ∧ jammed.cfg.assigned (exitFn .straight) = true) ∧
      ({ jammed with tracker := { jammed.tracker with clearHold := some 1999 } }.tracker.clearHold = some 1999) := by
  decide

/-- Sixteen inbound entries. -/
def fullInbound : State :=
  { operating with
    tracker :=
      { operating.tracker with
        inbound := List.replicate 16 { source := 11, tag := 1, thickness := 0, mass := 0, age := 5 } } }

theorem witness_UpstreamNoticesFeedTheInboundQueue :
    (fullInbound.node = .operating ∧ fullInbound.acceptsSource 11 = true ∧ fullInbound.tracker.inbound.length = 16 ∧
        fullInbound.cfg.hasUpstream 11 .straight = true) ∧
      (operating.acceptsSource 62 = true ∧ operating.cfg.hasUpstreamSource 62 = false ∧
        operating.tracker.inbound.length < 16) := by
  decide

theorem witness_PulsesAreCountedToTheirTop :
    operating.node = .operating ∧ WidthLaw operating ∧ operating.cfg.fn 3 = .encoder ∧ operating.cfg.fn 5 = .tach ∧
      operating.cfg.fn 23 = .masked := by
  refine ⟨?_, ?_, ?_, ?_, ?_⟩ <;> decide

theorem witness_PeriodEndTakesItsCounts :
    (periodEnd.node = .operating ∧ periodEnd.lines.levels.motorRun.level = true ∧ periodEnd.cfg.fn 3 = .encoder ∧
        periodEnd.cfg.assigned .encoder = true ∧ (periodEnd.cfg.slot 4).tach = some 4 ∧
        (periodEnd.cfg.slot 4).kind ≠ .belt ∧ 32 ≤ periodEnd.lines.counts.getD 3 0 * (periodEnd.cfg.slot 4).ratio / 256) ∧
      (ConfigLaw periodEnd ∧ WidthLaw periodEnd) ∧
      { contending with planner := { contending.planner with takenOwed := true } }.planner.takenValues =
        some { urgency := 199, dueCount := 1, windowCount := 40 } := by
  refine ⟨?_, ⟨?_, ?_⟩, ?_⟩ <;> decide

/-- The boundary handed over, its counters turned. -/
def hourBegun : State := idled hourEnding

theorem witness_RunHourFoldsTheHour :
    operating.node = .operating ∧ ConfigLaw operating ∧ WidthLaw operating ∧ TableLaw operating ∧
      (operating.cfg.slot 4).present = true ∧ (operating.cfg.slot 31).present = false ∧ operating.handed = [] := by
  refine ⟨?_, ?_, ?_, ?_, ?_, ?_, ?_⟩ <;> decide

theorem witness_RunHourFoldsTheHour_handed :
    hourBegun.node = .operating ∧ ConfigLaw hourBegun ∧ WidthLaw hourBegun ∧ TableLaw hourBegun ∧
      .runHourBoundary ∈ hourBegun.handed := by
  refine ⟨?_, ?_, ?_, ?_, ?_⟩ <;> decide

theorem witness_ClaimRefreshCopiesAndClaims :
    operating.node = .operating ∧ 128 ≤ operating.forecast.pending.urgency := by
  decide

theorem witness_PieceCreditChargesTheRecordsTouched :
    operating.node = .operating ∧ ConfigLaw operating ∧ WidthLaw operating ∧ TableLaw operating ∧ Capped operating :=
  ⟨by decide, test_operating_config, test_operating_width, test_operating_table, test_operating_capped⟩

theorem witness_SurchargesChargeEveryRecord :
    operating.node = .operating ∧ ConfigLaw operating ∧ WidthLaw operating ∧ TableLaw operating ∧ Capped operating :=
  ⟨by decide, test_operating_config, test_operating_width, test_operating_table, test_operating_capped⟩

theorem witness_CreditsMeetInEitherOrder :
    (config.slot 7).present = true ∧ RecordLaw config (config.slot 7) (operating.comp 7) ∧
      (operating.comp 7).dyn.account ≤ capOf (config.slot 7).life ∧ (operating.comp 7).dyn.hourDelta ≤ Config.deltaTop := by
  decide

/-- The shortest life, with both ends of its account. -/
theorem witness_WearRunsFromZeroToItsCap : 1 ≤ (1 : Nat) ∧ 0 ≤ capOf 1 ∧ capOf 1 = 2 ^ 29 - 1 := by decide

/-- The horizon and watch limit of the worked configuration, on either side of 128. -/
theorem witness_UrgencySplitsAtTheHorizon :
    1 ≤ config.hz ∧ urgencyOf config.hz config.tWatch 850 52 = 199 ∧ urgencyOf config.hz config.tWatch 840 133 = 106 := by
  decide

theorem witness_SteadySlipSettles :
    (0 : Nat) ≤ 1000 ∧ 24 * 320 / 256 < 32 ∧ 32 ≤ 1200 * 320 / 256 ∧
      slipSample (expectedCount 1200 320) 1482 = 12 := by
  decide

theorem witness_ReplaceStartsTheAccountAgain :
    operating.node = .operating ∧ ConfigLaw operating ∧ WidthLaw operating ∧ (operating.cfg.slot 12).present = true ∧
      (operating.cfg.slot 31).present = false ∧ (operating.cfg.slot 32).present = false := by
  refine ⟨?_, ?_, ?_, ?_, ?_, ?_⟩ <;> decide

theorem witness_AccountsRiseUntilReplaced :
    ∃ t, { operating with pending := [.replace 4] }.node = .operating ∧
      step { operating with pending := [.replace 4] } = .next t ∧ t.node = .operating ∧
      (t.comp 4).dyn.account < ({ operating with pending := [.replace 4] }.comp 4).dyn.account ∧
      Capped { operating with pending := [.replace 4] } := by
  refine ⟨after (.replace 4) operating, ?_, rfl, ?_, ?_, ?_⟩ <;> decide

theorem witness_AccountsRiseUntilReplaced_confirm :
    servicing.node = .operating ∧ (servicing.orders.at servicing.orders.head).slot = 3 ∧ 0 < servicing.orders.openCount ∧
      servicing.planner.window = .servicing := by
  decide

/-- Two of the places taken before MAINT rises. -/
def placesTaken : State :=
  { claimant with
    planner := { claimant.planner with window := .pending, takenSet := [17, 11], pendingHold := some 600 } }

theorem witness_MaintRiseOpensAWindow :
    (claimant.node = .operating ∧ claimant.planner.window = .closed ∧ 128 ≤ claimant.forecast.pending.urgency ∧
        claimant.planner.takenSet.length < claimant.cfg.k) ∧
      (placesTaken.planner.window = .pending ∧ placesTaken.cfg.k ≤ placesTaken.planner.takenSet.length) ∧
      (contending.planner.window ≠ .closed ∧ contending.planner.window ≠ .pending) := by
  decide

theorem witness_WindowsCloseWithTheSetCleared :
    contending.node = .operating ∧
      (holdOver.node = .operating ∧ holdOver.planner.window = .pending ∧ holdOver.planner.pendingHold = some 5000) ∧
      placesTaken.planner.pendingHold = some 600 := by
  decide

theorem witness_TakenHeardFillsTheSet :
    (claimant.node = .operating ∧ claimant.acceptsSource 17 = true ∧ claimant.planner.window = .closed) ∧
      (contending.node = .operating ∧ contending.planner.window = .contending ∧ contending.cfg.k = 2 ∧
        contending.planner.takenSet = []) ∧
      ((after (.takenHeard 17) contending).planner.window = .contending ∧
        (after (.takenHeard 17) contending).planner.takenSet = [17] ∧ contending.acceptsSource 11 = true) ∧
      (placesTaken.planner.window = .pending ∧ 17 ∈ placesTaken.planner.takenSet) := by
  decide

/-- A full claim view. -/
def fullView : State :=
  { operating with
    planner :=
      { operating.planner with
        view := (List.range 24).map fun i => { address := BitVec.ofNat 6 (i + 20), urgency := 200, age := 4 }
        standing := .waiting } }

theorem witness_ClaimsKeepTheViewRanked :
    (fullView.node = .operating ∧ fullView.acceptsSource 1 = true ∧ fullView.planner.view.length = 24 ∧
        fullView.planner.view.getLast? = some { address := 43, urgency := 200, age := 4 }) ∧
      PlannerLaw fullView ∧ (viewed.node = .operating ∧ viewed.planner.view.length < 24) ∧ PlannerLaw viewed := by
  refine ⟨?_, ?_, ?_, ?_⟩ <;> decide

theorem witness_EntriesLeaveTheView :
    viewed.node = .operating ∧ viewed.acceptsSource 17 = true ∧
      viewed.planner.view.getLast? = some { address := 11, urgency := 199, age := 100000 } := by
  decide

theorem witness_TheKthEntryDecidesTheStanding :
    1 ≤ operating.cfg.k ∧ viewed.planner.view.Pairwise (fun a b => a.before b = true) := by
  decide

/-- The two clauses of CONFIRM are told apart by a free value; one of them holds, and each by the same state. -/
theorem witness_PressesCloseTheHeadOrder :
    (servicing.node = .operating ∧ servicing.planner.window = .servicing ∧ 0 < servicing.orders.openCount) ∧
      (Config.replaceFirst servicing.choices = false ∨ Config.replaceFirst servicing.choices = true) ∧
      (operating.node = .operating ∧ operating.planner.window ≠ .servicing) := by
  refine ⟨by decide, ?_, by decide⟩
  cases Config.replaceFirst servicing.choices
  · exact .inl rfl
  · exact .inr rfl

theorem witness_CompletedTakenAppendsTheDueOrders :
    (taking.node = .operating ∧ taking.planner.window = .contending ∧ taking.queue.removalMark = false ∧
        taking.inFlight =
          some { priority := 56, body := .taken { urgency := 199, dueCount := 4, windowCount := 41 } }) ∧
      ConfigLaw taking ∧ WidthLaw taking ∧ PlannerLaw taking ∧ QueueLaw taking := by
  refine ⟨?_, ?_, ?_, ?_, ?_⟩ <;> decide

theorem witness_NoticesTakeTheirPlaceByHeader :
    (operating.bus.mode ≠ .silenced ∧ QueueLaw operating ∧ operating.queued < 8 ∧ pieceNotice.body.isClaimKind = false) ∧
      (evictionStart.bus.mode ≠ .silenced ∧ QueueLaw evictionStart ∧ evictionStart.queued = 8 ∧
        evictionStart.queue.waiting = evictionStart.queue.waiting.dropLast ++ [{ priority := 0, body := .report 60 [] }]) := by
  refine ⟨⟨?_, ?_, ?_, ?_⟩, ?_, ?_, ?_, ?_⟩ <;> decide

theorem witness_ClaimsShareOnePlace :
    (waitingClaim.bus.mode ≠ .silenced ∧ QueueLaw waitingClaim ∧ withdrawNotice.body.isClaimKind = true ∧
        (∃ m ∈ waitingClaim.queue.waiting, m.body.isClaimKind = true)) ∧
      (sendingClaim.bus.mode ≠ .silenced ∧ QueueLaw sendingClaim ∧ sendingClaim.sends NoticeBody.isClaimKind = true) ∧
      ({ operating with bus := { operating.bus with mode := .silenced } }.bus.mode = .silenced ∧
        QueueLaw { operating with bus := { operating.bus with mode := .silenced } }) := by
  refine ⟨⟨?_, ?_, ?_, ?_⟩, ⟨?_, ?_, ?_⟩, ?_, ?_⟩ <;> decide

theorem witness_BusViewAndMuteMove :
    (operating.node ≠ .starting ∧ operating.inFlight = none ∧ operating.bus.view = .idle ∧
        operating.bus.activity = .waiting) ∧
      (muted.node ≠ .starting ∧ muted.bus.muteMs = some 1000) ∧ sendingClaim.bus.view = .busy := by
  decide

theorem witness_TheHeadNoticeGoesIntoTransmission :
    waitingClaim.node ≠ .starting ∧ waitingClaim.bus.activity = .waiting ∧ waitingClaim.bus.mode = .active ∧
      waitingClaim.queue.waiting = [claim199] ∧ waitingClaim.bus.view = .idle ∧ waitingClaim.bus.seenIdle = true ∧
      operating.queue.waiting = [] := by
  decide

theorem witness_LossesAndAbortsReturnTheNotice :
    sendingClaim.inFlight = some claim199 ∧ QueueLaw sendingClaim ∧ sendingClaim.bus.faultCount < 32 ∧
      (claim199.cells 14)[16]? = some true ∧ (claim199.cells 14)[17]? = some false ∧
      75 < (claim199.cells 14).length ∧
      QueueLaw { sendingClaim with queue := { sendingClaim.queue with held := some withdrawNotice } } ∧
      QueueLaw { taking with queue := { taking.queue with removalMark := true } } := by
  refine ⟨?_, ?_, ?_, ?_, ?_, ?_, ?_, ?_⟩ <;> decide

theorem witness_CompletedNoticesLeaveTheQueue :
    (sendingClaim.inFlight = some claim199 ∧ QueueLaw sendingClaim ∧ claim199.body.isTaken = false) ∧
      (taking.inFlight =
          some { priority := 56, body := .taken { urgency := 199, dueCount := 4, windowCount := 41 } } ∧
        QueueLaw { taking with queue := { taking.queue with removalMark := true } }) := by
  refine ⟨⟨?_, ?_, ?_⟩, ?_, ?_⟩ <;> decide

theorem witness_FramesReadBackAsSent : 7 < 8 ∧ 255 < 256 ∧ (List.replicate 12 (0xFF : Byte)).length ≤ 12 := by decide

theorem witness_BrokenAndFailingFramesAreDropped :
    operating.node ≠ .starting ∧ operating.bus.activity = .waiting ∧ (List.replicate 43 false).length < 44 ∧
      13 ≤ ofBits (((List.replicate 60 false).set 24 true |>.set 25 true |>.set 27 true).drop 24 |>.take 4) ∧
      (parseFrame (List.replicate 44 false)).any (fun f => !f.checkOk) = true := by
  refine ⟨?_, ?_, ?_, ?_, ?_⟩ <;> decide +kernel

theorem witness_WholeFramesAreTakenByTheirClass :
    operating.node ≠ .starting ∧ operating.bus.activity = .waiting ∧ QueueLaw operating ∧
      (14 : Addr) = operating.straps.addr ∧ (62 : Addr) ≠ operating.straps.addr ∧ operating.bus.mode ≠ .silenced := by
  refine ⟨?_, ?_, ?_, ?_, ?_, ?_⟩ <;> decide

theorem witness_QueriesAreTakenOneAtATime :
    (operating.node ≠ .starting ∧ operating.acceptsSource 60 = true ∧ operating.bus.mode ≠ .silenced ∧
        operating.query = none ∧ operating.node ≠ .unconfigured) ∧
      evictionStart.query ≠ none := by
  decide

theorem witness_AddressedFramesReachTheirBlock :
    operating.node ≠ .starting ∧ operating.bus.mode ≠ .silenced ∧ operating.bus.activity = .waiting ∧
      usableAddr operating.straps.addr = true ∧ operating.acceptsSource 60 = true ∧
      ([reportHead .component 4] : List Byte) = [0x84] := by
  decide

theorem witness_ReportsFollowTheirLayouts :
    operating.node = .operating ∧ WidthLaw operating ∧ TrackerLaw operating ∧
      (operating.cfg.slot 4).present = true ∧ (operating.comp 4).wear ≤ 1999 ∧ (operating.cfg.slot 31).present = false ∧
      (servicing.orders.at 5).status = .opened ∧ (servicing.orders.at 31).status = .empty := by
  refine ⟨?_, ?_, ?_, ?_, ?_, ?_, ?_, ?_⟩ <;> decide

theorem witness_LineItemsAreStagedClamped :
    commissioning.node = .commissioning ∧ commissioning.bus.mode ≠ .silenced ∧ commissioning.account.writes = [] ∧
      lineFnOf 15 = some (.classLine 5) ∧ lineFnOf 16 = none ∧ (23 : Byte).toNat < 24 ∧ (15 : Byte).toNat ≤ 15 := by
  decide

theorem witness_SlotItemsAreStagedClamped :
    commissioning.node = .commissioning ∧ commissioning.bus.mode ≠ .silenced ∧ commissioning.account.writes = [] ∧
      kindOf 2 = some .belt ∧ pathOf 2 = some .divert ∧ tachOf 23 = some (some 23) ∧ tachOf 24 = none := by
  decide

theorem witness_LabelsAreTakenOnce :
    (commissioning.node ≠ .starting ∧ commissioning.bus.mode ≠ .silenced ∧ commissioning.node = .commissioning ∧
        commissioning.account.writes = [] ∧ commissioning.account.labelCommitted = false ∧
        commissioning.account.labelTaken = false) ∧
      (after (.label 5) commissioning).account.labelTaken = true ∧
      (operating.node ≠ .commissioning ∧ operating.bus.mode ≠ .silenced ∧ operating.node ≠ .starting) ∧
      ({ commissioning with bus := { commissioning.bus with mode := .silenced } }.bus.mode = .silenced ∧
        { commissioning with bus := { commissioning.bus with mode := .silenced } }.node ≠ .starting) := by
  decide

/-- The worked configuration loaded, and staged with another tach line for slot 4. -/
def retached : State :=
  { staged with
    cfg := config
    cfgGood := true
    account :=
      { staged.account with
        staging :=
          { config with slots := config.slots.set 4 (component .driveRoller .common 2000000 20 (some 5)) } } }

theorem witness_CommitWritesTheStagedConfiguration_tach :
    (retached.node = .commissioning ∧ retached.bus.mode ≠ .silenced ∧ retached.account.writes = [] ∧
        commitResult retached.account.staging = 1 ∧ (retached.cfg.slot 4).present = true ∧
        (retached.cfg.slot 4).tach ≠ (retached.account.staging.slot 4).tach ∧
        (List.range 32).all (fun i => !slotChanged (retached.cfg.slot i) (retached.account.staging.slot i)) = true) ∧
      ConfigLaw retached ∧ WidthLaw retached := by
  refine ⟨?_, ?_, ?_⟩ <;> decide

theorem witness_CommitWritesTheStagedConfiguration :
    (staged.node = .commissioning ∧ staged.bus.mode ≠ .silenced ∧ staged.account.writes = [] ∧
        commitResult staged.account.staging = 1 ∧ commitResult commissioning.account.staging ≠ 1) ∧
      ConfigLaw staged ∧ WidthLaw staged := by
  refine ⟨?_, ?_, ?_⟩ <;> decide

/-- A second COMMIT, of the configuration that the first one left, after a list emptied. -/
def committedTwice : State := { retached with account := { retached.account with staging := config, listEmptied := true } }

theorem witness_CommitWritesTheStagedConfiguration_again :
    (committedTwice.node = .commissioning ∧ committedTwice.bus.mode ≠ .silenced ∧ committedTwice.account.writes = [] ∧
        commitResult committedTwice.account.staging = 1 ∧ committedTwice.account.listEmptied = true ∧
        committedTwice.cfg = committedTwice.account.staging) ∧
      ConfigLaw committedTwice ∧ WidthLaw committedTwice := by
  refine ⟨?_, ?_, ?_⟩ <;> decide

theorem witness_StepsKeepEveryRange : ∃ t, step operating = .next t ∧ ConfigLaw operating ∧ WidthLaw operating :=
  ⟨_, rfl, test_operating_config, test_operating_width⟩

theorem witness_StepsKeepTheTracker : ∃ t, step operating = .next t ∧ TrackerLaw operating ∧ MotorLaw operating :=
  ⟨_, rfl, test_operating_tracker, test_operating_motor⟩

theorem witness_StepsKeepTheComponentTable : ∃ t, step operating = .next t ∧ TableLaw operating :=
  ⟨_, rfl, test_operating_table⟩

theorem witness_StepsKeepThePlanner :
    ∃ t, step operating = .next t ∧ QuietLaw operating ∧ PlannerLaw operating ∧ MaintLaw operating :=
  ⟨_, rfl, test_operating_quiet, test_operating_planner, test_operating_maint⟩

theorem witness_StepsKeepTheBusSide : ∃ t, step operating = .next t ∧ QueueLaw operating ∧ BusLaw operating :=
  ⟨_, rfl, test_operating_queue, test_operating_bus⟩

theorem witness_StepsKeepTheOrderRing :
    ∃ t, step operating = .next t ∧ ConfigLaw operating ∧ WidthLaw operating ∧ RingLaw operating :=
  ⟨_, rfl, test_operating_config, test_operating_width, test_operating_ring⟩

theorem witness_StepsKeepTheOutputs : ∃ t, step operating = .next t ∧ OutputLaw operating :=
  ⟨_, rfl, test_operating_output⟩

end Sys2Proof.Tests
end

section
/-! SUPPORT. Notices from upstream (R19, R20, R22): which of them the Piece Tracker takes, and what it does with one. -/

namespace Sys2Proof.Machine

open Sys2Proof

theorem hasUpstream_iff (c : Configuration) (source : Addr) (exit : ExitPath) :
    c.hasUpstream source exit = true ↔
      ∃ u ∈ c.upstream, u.inUse = true ∧ u.address = source ∧ u.exit = exit := by
  simp [Configuration.hasUpstream, and_assoc]

theorem hasUpstreamSource_iff (c : Configuration) (source : Addr) :
    c.hasUpstreamSource source = true ↔ ∃ u ∈ c.upstream, u.inUse = true ∧ u.address = source := by
  simp [Configuration.hasUpstreamSource]

/-- In OPERATING, and from an accepted source, a PASSAGE is taken exactly for a configured source and exit (R19). -/
theorem takesPassage_iff {s : State} {source : Addr} (hnode : s.node = .operating)
    (hsource : s.acceptsSource source = true) (exit : ExitPath) :
    s.takesPassage source exit = true ↔
      ∃ u ∈ s.cfg.upstream, u.inUse = true ∧ u.address = source ∧ u.exit = exit := by
  simp [State.takesPassage, State.operating, hnode, hsource, hasUpstream_iff]

/-- In OPERATING, and from an accepted source, a JAM is taken exactly for a configured source (R22). -/
theorem takesJam_iff {s : State} {source : Addr} (hnode : s.node = .operating)
    (hsource : s.acceptsSource source = true) :
    s.takesJam source = true ↔ ∃ u ∈ s.cfg.upstream, u.inUse = true ∧ u.address = source := by
  simp [State.takesJam, State.operating, hnode, hsource, hasUpstreamSource_iff]

/-- A full queue loses its head and counts it; in both cases the new entry is the last (R20). -/
theorem Tracker.append_eq (t : Tracker) (e : InboundEntry) (hbound : t.inbound.length ≤ 16) :
    t.append e =
      { t with
        inbound := (if t.inbound.length = 16 then t.inbound.tail else t.inbound) ++ [e]
        missing := if t.inbound.length = 16 then min 65535 (t.missing + 1) else t.missing } := by
  unfold Tracker.append
  by_cases hfull : t.inbound.length = 16
  · have hplaces : Config.inboundPlaces ≤ t.inbound.length := hfull.ge
    simp only [if_pos hplaces, if_pos hfull, List.drop_one, satAdd]
  · have hplaces : ¬Config.inboundPlaces ≤ t.inbound.length := fun h => hfull (le_antisymm hbound h)
    simp only [if_neg hplaces, if_neg hfull]

theorem exec_passageReceived_taken {s : State} {source : Addr} {exit : ExitPath}
    (htakes : s.takesPassage source exit = true) (tag : Tag) (thickness mass : PieceClass) (phantom : Bool) :
    exec (.passageReceived source tag thickness mass exit phantom) s =
      .next (s.hearPassage source tag thickness mass).settle :=
  if_pos htakes

theorem exec_passageReceived_ignored {s : State} {source : Addr} {exit : ExitPath}
    (hignores : ¬s.takesPassage source exit = true) (tag : Tag) (thickness mass : PieceClass) (phantom : Bool) :
    exec (.passageReceived source tag thickness mass exit phantom) s = .next s :=
  if_neg hignores

theorem exec_jamReceived_taken {s : State} {source : Addr} (htakes : s.takesJam source = true) :
    exec (.jamReceived source) s = .next (s.hearJam source).settle :=
  if_pos htakes

theorem exec_jamReceived_ignored {s : State} {source : Addr} (hignores : ¬s.takesJam source = true) :
    exec (.jamReceived source) s = .next s :=
  if_neg hignores

/-- A PASSAGE heard changes the inbound queue, its count of missing entries and the outputs only (R19, R20). -/
theorem hearPassage_settle_eq (s : State) (source : Addr) (tag : Tag) (thickness mass : PieceClass)
    (hbound : s.tracker.inbound.length ≤ 16) :
    (s.hearPassage source tag thickness mass).settle =
      { s with
        tracker :=
          { s.tracker with
            inbound :=
              (if s.tracker.inbound.length = 16 then s.tracker.inbound.tail else s.tracker.inbound) ++
                [{ source := source, tag := tag, thickness := thickness, mass := mass, age := 0 }]
            missing :=
              if s.tracker.inbound.length = 16 then min 65535 (s.tracker.missing + 1) else s.tracker.missing }
        out := (s.hearPassage source tag thickness mass).settle.out } := by
  rw [← Tracker.append_eq _ _ hbound]
  exact State.settle_eq _

/-- A JAM heard keeps the entries of the other sources, and changes only the inbound queue and the outputs (R22). -/
theorem hearJam_settle_eq (s : State) (source : Addr) :
    (s.hearJam source).settle =
      { s with
        tracker := { s.tracker with inbound := s.tracker.inbound.filter fun e => decide (e.source ≠ source) }
        out := (s.hearJam source).settle.out } := by
  have hkept : (fun e : InboundEntry => decide (e.source ≠ source)) = fun e => e.source != source :=
    funext fun _ => decide_not
  rw [hkept]
  exact State.settle_eq _

/-- Settles O16: a notice is taken exactly when an upstream entry matches it, and then its effect is that of
`State.hearPassage` or `State.hearJam`. -/
theorem upstreamNoticesFeedTheInboundQueue : Obligations.UpstreamNoticesFeedTheInboundQueue := by
  unfold Obligations.UpstreamNoticesFeedTheInboundQueue
  intro source tag thickness mass exit phantom s hnode hsource
  have hpassage := takesPassage_iff hnode hsource exit
  have hjam := takesJam_iff hnode hsource
  refine ⟨fun hentry hbound => ?joins, fun hnone => ?passageIgnored, fun hentry => ?purges, fun hnone => ?jamIgnored⟩
  case joins =>
    exact ⟨_, exec_passageReceived_taken (hpassage.2 hentry) tag thickness mass phantom,
      hearPassage_settle_eq s source tag thickness mass hbound⟩
  case passageIgnored =>
    refine exec_passageReceived_ignored (fun htakes => ?_) tag thickness mass phantom
    obtain ⟨u, hu, hmatch⟩ := hpassage.1 htakes
    exact hnone u hu hmatch
  case purges =>
    exact ⟨_, exec_jamReceived_taken (hjam.2 hentry), hearJam_settle_eq s source⟩
  case jamIgnored =>
    refine exec_jamReceived_ignored fun htakes => ?_
    obtain ⟨u, hu, hmatch⟩ := hjam.1 htakes
    exact hnone u hu hmatch

end Sys2Proof.Machine
end

section
/-! SUPPORT. A credit to one record (R56, R59), two of them in a row (R69), and a credit to the whole table (R59, R60,
R73, R89). -/

namespace Sys2Proof.Machine

open Sys2Proof

/-! ### One credit -/

/-- The increment enters a credit only through the account it asks for, clamped at the cap (R56). -/
theorem Component.credit_congr {cfg : Configuration} {sl : SlotConfig} {c : Component} {a b : Nat}
    (h : min (capOf sl.life) (c.dyn.account + a) = min (capOf sl.life) (c.dyn.account + b)) :
    c.credit cfg sl a = c.credit cfg sl b := by
  simp only [Component.credit, h]

theorem Component.credit_account_of_capped {cfg : Configuration} {sl : SlotConfig} {c : Component} (increment : Nat)
    (hcap : c.dyn.account ≤ capOf sl.life) :
    (c.credit cfg sl increment).dyn.account = min (capOf sl.life) (c.dyn.account + increment) := by
  rw [Component.credit_account]
  omega

/-- The hour delta takes what was applied to the account (R56). -/
theorem Component.credit_hourDelta {cfg : Configuration} {sl : SlotConfig} {c : Component} (increment : Nat)
    (hdelta : c.dyn.hourDelta ≤ Config.deltaTop) :
    (c.credit cfg sl increment).dyn.hourDelta =
      min Config.deltaTop (c.dyn.hourDelta + ((c.credit cfg sl increment).dyn.account - c.dyn.account)) := by
  by_cases hidle : min (capOf sl.life) (c.dyn.account + increment) ≤ c.dyn.account
  · rw [Component.credit_idle hidle, Nat.sub_self, Nat.add_zero, Nat.min_eq_right hdelta]
  · simp only [Component.credit, hidle, if_false, satAdd]

/-- A record is marked exactly by a credit that raises its account. -/
theorem Component.credit_marked (cfg : Configuration) (sl : SlotConfig) (c : Component) (increment : Nat) :
    (c.credit cfg sl increment).marked =
      (c.marked || decide (c.dyn.account < (c.credit cfg sl increment).dyn.account)) := by
  by_cases hidle : min (capOf sl.life) (c.dyn.account + increment) ≤ c.dyn.account
  · simp [Component.credit_idle hidle]
  · have hraised := Nat.lt_of_not_le hidle
    simp only [Component.credit, hidle, if_false, hraised, decide_true, Bool.or_true]

/-- A credit changes account, hour delta, wear, urgency, band and mark only. -/
theorem Component.credit_frame (cfg : Configuration) (sl : SlotConfig) (c : Component) (increment : Nat) :
    c.credit cfg sl increment =
      { c with
        dyn :=
          { c.dyn with
            account := (c.credit cfg sl increment).dyn.account
            hourDelta := (c.credit cfg sl increment).dyn.hourDelta }
        wear := (c.credit cfg sl increment).wear
        urgency := (c.credit cfg sl increment).urgency
        band := (c.credit cfg sl increment).band
        marked := (c.credit cfg sl increment).marked } := by
  unfold Component.credit
  dsimp only
  split <;> rfl

/-- A credit to a present record in agreement with its account, and within its cap, is the credit of the spec. -/
theorem Component.creditOf_credit {cfg : Configuration} {sl : SlotConfig} {c : Component} (increment : Nat)
    (hpresent : sl.present = true) (hrecord : RecordLaw cfg sl c) (hcap : c.dyn.account ≤ capOf sl.life)
    (hdelta : c.dyn.hourDelta ≤ Config.deltaTop) : CreditOf cfg sl increment c (c.credit cfg sl increment) := by
  have hagrees := Component.credit_recordLaw increment hpresent hrecord
  simp only [RecordLaw, hpresent, if_true] at hagrees
  obtain ⟨hwear, hurgency, hband⟩ := hagrees
  obtain ⟨-, -, -, -, -, hhours, -⟩ := Component.credit_keeps cfg sl c increment
  rw [hhours] at hurgency
  exact ⟨Component.credit_account_of_capped increment hcap, Component.credit_hourDelta increment hdelta, hwear,
    hurgency, hband, Component.credit_marked cfg sl c increment, Component.credit_frame cfg sl c increment⟩

/-! ### Two credits to one record -/

/-- A credit that raises the account of a record in agreement with it works out all derived fields from the new
account; where the model keeps one of them, it is because it has not moved (R59). -/
theorem Component.credit_of_raised {cfg : Configuration} {sl : SlotConfig} {c : Component} {increment : Nat}
    (hpresent : sl.present = true) (hrecord : RecordLaw cfg sl c)
    (hraised : c.dyn.account < min (capOf sl.life) (c.dyn.account + increment)) :
    c.credit cfg sl increment =
      let account := min (capOf sl.life) (c.dyn.account + increment)
      let wear := wearOf account sl.life
      let urgency := urgencyOf cfg.hz cfg.tWatch wear c.hours
      { c with
        dyn :=
          { c.dyn with
            account := account
            hourDelta := min Config.deltaTop (c.dyn.hourDelta + (account - c.dyn.account)) }
        wear := wear
        urgency := urgency
        band := bandOf cfg.tWatch wear urgency
        marked := true } := by
  have hagrees := Component.credit_recordLaw increment hpresent hrecord
  obtain ⟨-, -, -, -, -, hhours, -⟩ := Component.credit_keeps cfg sl c increment
  simp only [RecordLaw, hpresent, if_true, hhours] at hagrees
  obtain ⟨hwear, hurgency, hband⟩ := hagrees
  have haccount : (c.credit cfg sl increment).dyn.account = min (capOf sl.life) (c.dyn.account + increment) := by
    rw [Component.credit_account, Nat.max_eq_right hraised.le]
  rw [haccount] at hwear
  rw [hwear] at hurgency
  rw [hwear, hurgency] at hband
  have hdelta : (c.credit cfg sl increment).dyn.hourDelta =
      min Config.deltaTop
        (c.dyn.hourDelta + (min (capOf sl.life) (c.dyn.account + increment) - c.dyn.account)) := by
    simp only [Component.credit, hraised.not_ge, if_false, satAdd]
  rw [Component.credit_frame, haccount, hdelta, hwear, hurgency, hband, Component.credit_marked, haccount,
    decide_eq_true hraised, Bool.or_true]

/-- Two credits in a row are one credit of both increments (R69). -/
theorem Component.credit_credit {cfg : Configuration} {sl : SlotConfig} {c : Component} (a b : Nat)
    (hpresent : sl.present = true) (hrecord : RecordLaw cfg sl c) (hcap : c.dyn.account ≤ capOf sl.life) :
    (c.credit cfg sl a).credit cfg sl b = c.credit cfg sl (a + b) := by
  have haccount := Component.credit_account_of_capped (cfg := cfg) a hcap
  by_cases hfirst : min (capOf sl.life) (c.dyn.account + a) ≤ c.dyn.account
  · rw [Component.credit_idle hfirst]
    exact Component.credit_congr (by omega)
  by_cases hsecond : min (capOf sl.life) ((c.credit cfg sl a).dyn.account + b) ≤ (c.credit cfg sl a).dyn.account
  · rw [Component.credit_idle hsecond]
    exact Component.credit_congr (by omega)
  rw [Component.credit_of_raised hpresent (Component.credit_recordLaw a hpresent hrecord) (Nat.lt_of_not_le hsecond),
    Component.credit_of_raised hpresent hrecord (Nat.lt_of_not_le hfirst),
    Component.credit_of_raised hpresent hrecord (increment := a + b) (by omega)]
  have hclamped : min (capOf sl.life) (min (capOf sl.life) (c.dyn.account + a) + b) =
      min (capOf sl.life) (c.dyn.account + (a + b)) := by omega
  have hdelta : min Config.deltaTop (min Config.deltaTop
        (c.dyn.hourDelta + (min (capOf sl.life) (c.dyn.account + a) - c.dyn.account)) +
          (min (capOf sl.life) (c.dyn.account + (a + b)) - min (capOf sl.life) (c.dyn.account + a))) =
      min Config.deltaTop (c.dyn.hourDelta + (min (capOf sl.life) (c.dyn.account + (a + b)) - c.dyn.account)) := by
    omega
  simp only [hclamped, hdelta]

/-- Settles O23: either order is one credit of both increments. -/
theorem creditsMeetInEitherOrder : Obligations.CreditsMeetInEitherOrder := by
  unfold Obligations.CreditsMeetInEitherOrder
  intro cfg sl c first second hpresent hrecord hcap
  rw [Component.credit_credit first second hpresent hrecord hcap,
    Component.credit_credit second first hpresent hrecord hcap]
  refine ⟨by rw [Nat.add_comm], ?account, Component.credit_hourDelta _⟩
  case account => rw [Component.credit_account_of_capped _ hcap, Nat.add_assoc]

/-! ### A credit to the table -/

theorem slots_length_of_configLaw {s : State} (hconfig : ConfigLaw s) : s.cfg.slots.length = Config.slots := by
  obtain ⟨hranges, -⟩ := hconfig
  obtain ⟨-, -, -, -, -, -, -, -, -, -, -, -, -, hslots, -⟩ := hranges s.cfg (by simp)
  exact hslots

theorem comps_of_widthLaw {s : State} (hwidth : WidthLaw s) :
    s.comps.length = Config.slots ∧
      ∀ c ∈ s.comps, c.dyn.InRange ∧ c.urgency ≤ 255 ∧ c.hours ≤ Config.hoursTop := by
  obtain ⟨-, -, -, -, -, -, -, -, -, -, -, hcomps, -⟩ := hwidth
  exact hcomps

/-- A slot's configuration and its record stand side by side in the two tables. -/
theorem State.slot_comp_mem_zip {s : State} {i : Nat} (hslots : i < s.cfg.slots.length) (hcomps : i < s.comps.length) :
    (s.cfg.slot i, s.comp i) ∈ s.cfg.slots.zip s.comps := by
  have hzip : i < (s.cfg.slots.zip s.comps).length := by simp [hslots, hcomps]
  have hpair : (s.cfg.slot i, s.comp i) = (s.cfg.slots.zip s.comps)[i] := by
    simp [Configuration.slot, State.comp, hslots, hcomps]
  rw [hpair]
  exact List.getElem_mem hzip

/-- The ALERTs of a rework of a full table are those of the bands that changed (R59, R73). -/
theorem bandAlerts_eq_bandChanges {old new : List Component} (hold : old.length = Config.slots)
    (hnew : new.length = Config.slots) : bandAlerts 0 old new = bandChanges old new := by
  rw [bandAlerts_eq 0 old new (hold.trans hnew.symm), hold]
  simp only [Nat.zero_add, alertOf]

@[simp] theorem State.rework_comps (s : State) (f : SlotConfig → Component → Component) :
    (s.rework f).comps = mapSlots f s.cfg.slots s.comps := by
  rw [State.rework, State.offerAll_frame]
  rfl

@[simp] theorem State.rework_forecast (s : State) (f : SlotConfig → Component → Component) :
    (s.rework f).forecast =
      { s.forecast with pending := nodeForecast s.cfg.slots (mapSlots f s.cfg.slots s.comps) } := by
  rw [State.rework, State.offerAll_frame]
  rfl

/-- A rework on taking a request changes the records, the pending values, what the queue's ALERTs change, the
outstanding work and the outputs. -/
theorem State.rework_take_settle_eq {s : State} (request : Instr) (f : SlotConfig → Component → Component)
    (hlength : s.comps.length = Config.slots) :
    ((s.take request).rework f).settle =
      { s.offerAll (bandChanges s.comps (mapSlots f s.cfg.slots s.comps)) with
        comps := mapSlots f s.cfg.slots s.comps
        forecast := { s.forecast with pending := nodeForecast s.cfg.slots (mapSlots f s.cfg.slots s.comps) }
        handed := s.handed.erase request
        out := ((s.take request).rework f).settle.out } := by
  have halerts := bandAlerts_eq_bandChanges hlength ((mapSlots_length f s.cfg.slots s.comps).trans hlength)
  have hoffered := State.offerAll_agree (s := s) (u := (s.take request).setComps (mapSlots f s.cfg.slots s.comps))
    (bandChanges s.comps (mapSlots f s.cfg.slots s.comps)) rfl rfl rfl rfl rfl
  rw [State.settle_eq, State.rework, State.take_comps, State.take_cfg, halerts, hoffered, State.offerAll_frame s]
  rfl

/-- Under the laws of OPERATING the table of credited records holds the credit of the spec for each present slot, and
every other record as it was. -/
theorem creditOf_mapSlots {s : State} {i : Nat} (hnode : s.node = .operating) (hconfig : ConfigLaw s)
    (hwidth : WidthLaw s) (htable : TableLaw s) (hcapped : Capped s) (increment : SlotConfig → Component → Nat)
    (hi : i < Config.slots) :
    if (s.cfg.slot i).present = true then
      CreditOf s.cfg (s.cfg.slot i) (increment (s.cfg.slot i) (s.comp i)) (s.comp i)
        ((mapSlots (fun sl c => c.credit s.cfg sl (increment sl c)) s.cfg.slots s.comps).getD i .zero)
    else
      (mapSlots (fun sl c => c.credit s.cfg sl (increment sl c)) s.cfg.slots s.comps).getD i .zero = s.comp i := by
  obtain ⟨hlength, hinRange⟩ := comps_of_widthLaw hwidth
  have hcomps : i < s.comps.length := by rwa [hlength]
  have hslots : i < s.cfg.slots.length := by rwa [slots_length_of_configLaw hconfig]
  have hmem := State.slot_comp_mem_zip hslots hcomps
  obtain ⟨hrecords, -⟩ := htable hnode
  obtain ⟨⟨-, -, hdelta, -⟩, -⟩ := hinRange _ (List.of_mem_zip hmem).2
  rw [mapSlots_getD _ _ _ _ hcomps, ← Configuration.slot, ← State.comp]
  split
  next hpresent =>
    exact Component.creditOf_credit _ hpresent (hrecords _ hmem) (hcapped _ hmem hpresent) hdelta
  next => rfl

/-- A credit to every present record, on taking its request, is the credit of the spec under the laws of OPERATING. -/
theorem State.credited_creditAll {s : State} (hnode : s.node = .operating) (hconfig : ConfigLaw s)
    (hwidth : WidthLaw s) (htable : TableLaw s) (hcapped : Capped s) (request : Instr)
    (increment : SlotConfig → Component → Nat) :
    Credited s ((s.take request).creditAll increment).settle request increment := by
  have hcomps : ((s.take request).creditAll increment).settle.comps =
      mapSlots (fun sl c => c.credit s.cfg sl (increment sl c)) s.cfg.slots s.comps := State.rework_comps _ _
  have hforecast : ((s.take request).creditAll increment).settle.forecast =
      { s.forecast with pending := nodeForecast s.cfg.slots ((s.take request).creditAll increment).settle.comps } :=
    hcomps ▸ State.rework_forecast _ _
  refine ⟨fun i hi => ?records, ?length, ?pending, ?frame⟩
  case records =>
    have hcomp := congrArg (fun comps => comps.getD i Component.zero) hcomps
    rw [← State.comp] at hcomp
    rw [hcomp]
    exact creditOf_mapSlots hnode hconfig hwidth htable hcapped increment hi
  case length => rw [hcomps, mapSlots_length]
  case pending =>
    rw [hforecast]
    exact nodeForecast_of _ _
  case frame =>
    rw [hforecast, hcomps]
    exact State.rework_take_settle_eq request _ (comps_of_widthLaw hwidth).1

/-! ### PIECE_CREDIT -/

theorem creditedBy_iff (sl : SlotConfig) (exit : ExitPath) (phantom : Bool) :
    creditedBy sl exit phantom = true ↔
      (sl.path = .common ∧ phantom = false) ∨ (sl.path = .straight ∧ exit = .straight) ∨
        (sl.path = .divert ∧ exit = .divert) := by
  cases hpath : sl.path <;> cases exit <;> simp [creditedBy, Path.isExit, hpath]

/-- The increment of a piece credit in the terms of R60 and R61. -/
theorem pieceIncrement_eq (cfg : Configuration) (thickness mass : PieceClass) (exit : ExitPath) (phantom : Bool) :
    pieceIncrement cfg thickness mass exit phantom = fun sl c =>
      if (sl.path = .common ∧ phantom = false) ∨ (sl.path = .straight ∧ exit = .straight) ∨
          (sl.path = .divert ∧ exit = .divert)
      then
        cfg.thicknessFactors.getD thickness.toNat 0 * cfg.massFactors.getD mass.toNat 0 *
          min 1023 (256 + c.dyn.slip * cfg.g / 64) * sl.weight
      else 0 := by
  funext sl c
  exact if_congr (creditedBy_iff sl exit phantom) rfl rfl

theorem exec_pieceCredit_operating {s : State} (hnode : s.node = .operating) (thickness mass : PieceClass)
    (exit : ExitPath) (phantom : Bool) :
    exec (.pieceCredit thickness mass exit phantom) s =
      .next ((s.take (.pieceCredit thickness mass exit phantom)).creditAll
        (pieceIncrement s.cfg thickness mass exit phantom)).settle :=
  if_pos (by simp [State.operating, hnode])

/-- Settles O21: the increment of `pieceIncrement`, credited to every present record. -/
theorem pieceCreditChargesTheRecordsTouched : Obligations.PieceCreditChargesTheRecordsTouched := by
  unfold Obligations.PieceCreditChargesTheRecordsTouched
  intro thickness mass exit phantom s hnode hconfig hwidth htable hcapped
  refine ⟨_, exec_pieceCredit_operating hnode thickness mass exit phantom, ?_⟩
  rw [← pieceIncrement_eq]
  exact State.credited_creditAll hnode hconfig hwidth htable hcapped _ _

end Sys2Proof.Machine
end

section
/-! SUPPORT. The urgency table row by row (R87), the split it makes at 128, and the band read from it (R71). -/

namespace Sys2Proof.Machine

open Sys2Proof

/-! ### The rows of the urgency table -/

section Rows

variable {hz tWatch wear hours : Nat}

theorem urgencyOf_of_rated (hrated : 1000 ≤ wear) : urgencyOf hz tWatch wear hours = 255 := if_pos hrated

theorem urgencyOf_of_within (hwear : wear < 1000) (hwithin : hours < hz) :
    urgencyOf hz tWatch wear hours = 128 + 127 * (hz - hours) / hz := by
  rw [urgencyOf, if_neg hwear.not_ge, if_pos hwithin]

theorem urgencyOf_of_beyond (hwear : wear < 1000) (hbeyond : hz ≤ hours) :
    urgencyOf hz tWatch wear hours = if tWatch ≤ wear then 127 * wear / 1000 else 0 := by
  rw [urgencyOf, if_neg hwear.not_ge, if_neg hbeyond.not_gt]

/-- In the second row Hz − H is at most Hz, so its term adds at most 127. -/
theorem forecastTerm_le (hz hours : Nat) : 127 * (hz - hours) / hz ≤ 127 :=
  Nat.div_le_of_le_mul (by omega)

/-- With no hours left the second row gives the urgency of rated life. -/
theorem urgencyOf_of_hours_zero (hhz : 1 ≤ hz) : urgencyOf hz tWatch wear 0 = 255 := by
  rcases le_or_gt 1000 wear with hrated | hwear
  · exact urgencyOf_of_rated hrated
  · rw [urgencyOf_of_within hwear hhz, Nat.sub_zero, Nat.mul_div_cancel _ hhz]

/-- Beyond the horizon W is at most 999, so its per-mille of 127 stays below 128. -/
theorem urgencyOf_lt_of_beyond (hwear : wear < 1000) (hbeyond : hz ≤ hours) :
    urgencyOf hz tWatch wear hours < 128 := by
  rw [urgencyOf_of_beyond hwear hbeyond]
  split <;> omega

theorem urgencyOf_le (hz tWatch wear hours : Nat) : urgencyOf hz tWatch wear hours ≤ 255 := by
  rcases le_or_gt 1000 wear with hrated | hwear
  · exact (urgencyOf_of_rated hrated).le
  rcases lt_or_ge hours hz with hwithin | hbeyond
  · have hterm := forecastTerm_le hz hours
    rw [urgencyOf_of_within hwear hwithin]
    omega
  · exact (urgencyOf_lt_of_beyond hwear hbeyond).le.trans (by decide)

/-- The strict boundary of R87: neither side of the table reaches across 128. -/
theorem le_urgencyOf_iff (hz tWatch wear hours : Nat) :
    128 ≤ urgencyOf hz tWatch wear hours ↔ 1000 ≤ wear ∨ hours < hz := by
  constructor
  · intro hdue
    by_contra hneither
    obtain ⟨hwear, hbeyond⟩ := not_or.1 hneither
    exact (urgencyOf_lt_of_beyond (not_le.1 hwear) (not_lt.1 hbeyond)).not_ge hdue
  · intro hsplit
    rcases le_or_gt 1000 wear with hrated | hwear
    · rw [urgencyOf_of_rated hrated]
      decide
    · rw [urgencyOf_of_within hwear (hsplit.resolve_left hwear.not_ge)]
      exact Nat.le_add_right _ _

end Rows

/-! ### The band as the first row that holds

A band is given exactly where its row of R71 holds and no row above it does, so each proof goes row by row. -/

theorem bandOf_eq_overlife_iff (tWatch wear urgency : Nat) : bandOf tWatch wear urgency = .overlife ↔ 1000 ≤ wear := by
  fun_cases bandOf <;> simp_all

theorem bandOf_eq_due_iff (tWatch wear urgency : Nat) :
    bandOf tWatch wear urgency = .due ↔ wear < 1000 ∧ 128 ≤ urgency := by
  fun_cases bandOf <;> simp_all

theorem bandOf_eq_watch_iff (tWatch wear urgency : Nat) :
    bandOf tWatch wear urgency = .watch ↔ wear < 1000 ∧ urgency < 128 ∧ tWatch ≤ wear := by
  fun_cases bandOf <;> simp_all

theorem bandOf_urgencyOf_eq_due_iff (hz tWatch wear hours : Nat) :
    bandOf tWatch wear (urgencyOf hz tWatch wear hours) = .due ↔ wear < 1000 ∧ hours < hz := by
  rw [bandOf_eq_due_iff, le_urgencyOf_iff]
  exact and_congr_right fun hwear => or_iff_right hwear.not_ge

theorem bandOf_urgencyOf_eq_watch_iff (hz tWatch wear hours : Nat) :
    bandOf tWatch wear (urgencyOf hz tWatch wear hours) = .watch ↔ wear < 1000 ∧ hz ≤ hours ∧ tWatch ≤ wear := by
  rw [bandOf_eq_watch_iff, ← not_le (a := 128), le_urgencyOf_iff, not_or, not_le, not_lt]
  exact and_congr_right fun hwear => and_congr_left' (and_iff_right hwear)

/-- Settles O26: the rows of R87 on either side of 128, and the bands of R71 read through that split. -/
theorem urgencySplitsAtTheHorizon : Obligations.UrgencySplitsAtTheHorizon := by
  unfold Obligations.UrgencySplitsAtTheHorizon
  intro hz tWatch wear hours hhz
  exact ⟨le_urgencyOf_iff hz tWatch wear hours, urgencyOf_le hz tWatch wear hours, urgencyOf_of_rated,
    fun hzero => hzero ▸ urgencyOf_of_hours_zero hhz, urgencyOf_of_within, urgencyOf_of_beyond,
    bandOf_eq_overlife_iff tWatch wear _, bandOf_urgencyOf_eq_due_iff hz tWatch wear hours,
    bandOf_urgencyOf_eq_watch_iff hz tWatch wear hours⟩

end Sys2Proof.Machine
end

section
/-! SUPPORT. The standing (R134, R145): what each of its values says of the view, and the K-th entry of a
ranked view. -/

namespace Sys2Proof.Machine

open Sys2Proof

/-! ### The entries that outrank the node -/

/-- An entry outranks the node exactly where it ranks before an entry of the node's own urgency and address (R145). -/
theorem ClaimEntry.outranks_eq_before (e : ClaimEntry) (urgency : Nat) (addr : Addr) :
    e.outranks urgency addr = e.before { address := addr, urgency := urgency, age := 0 } := rfl

theorem ClaimEntry.outranks_iff (e : ClaimEntry) (urgency : Nat) (addr : Addr) :
    e.outranks urgency addr = true ↔ urgency < e.urgency ∨ (urgency = e.urgency ∧ e.address < addr) := by
  rw [ClaimEntry.outranks_eq_before, ClaimEntry.before_iff, eq_comm (a := e.urgency)]

theorem ClaimEntry.outranks_of_before {a b : ClaimEntry} {urgency : Nat} {addr : Addr} (hbefore : a.before b = true)
    (houtranks : b.outranks urgency addr = true) : a.outranks urgency addr = true :=
  ClaimEntry.before_trans (c := { address := addr, urgency := urgency, age := 0 }) hbefore houtranks

/-- Where a property of a member holds of all members before it, its members are the first ones of the list: there are
more than `i` of them exactly when the member at place `i` is one. -/
theorem lt_countP_iff_getElem? {α : Type*} {p : α → Bool} {l : List α}
    (hfirst : l.Pairwise fun a b => p b = true → p a = true) (i : Nat) :
    i < l.countP p ↔ ∃ a, l[i]? = some a ∧ p a = true := by
  induction l generalizing i with
  | nil => simp
  | cons x xs ih =>
    obtain ⟨hx, hxs⟩ := List.pairwise_cons.1 hfirst
    by_cases hp : p x = true
    · rw [List.countP_cons_of_pos hp]
      cases i with
      | zero => simp [hp]
      | succ i => simpa using ih hxs i
    · have hnone : ∀ a ∈ x :: xs, ¬p a = true := List.forall_mem_cons.2 ⟨hp, fun a ha hpa => hp (hx a ha hpa)⟩
      rw [List.countP_eq_zero.2 hnone]
      constructor
      · exact fun h => absurd h (Nat.not_lt_zero i)
      · rintro ⟨a, ha, hpa⟩
        exact absurd hpa (hnone a (List.mem_of_getElem? ha))

/-- In a ranked view the entries that outrank the node are the first ones (R145). -/
theorem Ranked.lt_countP_outranks_iff {view : List ClaimEntry} (hranked : Ranked view) (urgency : Nat) (addr : Addr)
    (i : Nat) :
    i < view.countP (fun e => e.outranks urgency addr) ↔ ∃ e, view[i]? = some e ∧ e.outranks urgency addr = true :=
  lt_countP_iff_getElem? (hranked.imp ClaimEntry.outranks_of_before) i

/-! ### The three standings -/

theorem standingOf_unclaimed {urgency : Nat} (hurgency : urgency < 128) (k : Nat) (addr : Addr)
    (view : List ClaimEntry) : standingOf k urgency addr view = .none := if_pos hurgency

theorem standingOf_claimed {urgency : Nat} (hurgency : 128 ≤ urgency) (k : Nat) (addr : Addr) (view : List ClaimEntry) :
    standingOf k urgency addr view =
      if view.countP (fun e => e.outranks urgency addr) < k then .granted else .waiting := by
  rw [List.countP_eq_length_filter]
  exact if_neg hurgency.not_gt

theorem standingOf_eq_none_iff (k urgency : Nat) (addr : Addr) (view : List ClaimEntry) :
    standingOf k urgency addr view = .none ↔ urgency < 128 := by
  rcases lt_or_ge urgency 128 with hurgency | hurgency
  · simp [standingOf_unclaimed hurgency, hurgency]
  · rw [standingOf_claimed hurgency]
    split <;> simp [hurgency]

theorem standingOf_eq_granted_iff (k urgency : Nat) (addr : Addr) (view : List ClaimEntry) :
    standingOf k urgency addr view = .granted ↔
      128 ≤ urgency ∧ view.countP (fun e => e.outranks urgency addr) < k := by
  rcases lt_or_ge urgency 128 with hurgency | hurgency
  · simp [standingOf_unclaimed hurgency, hurgency]
  · simp [standingOf_claimed hurgency, hurgency]

theorem standingOf_eq_waiting_iff (k urgency : Nat) (addr : Addr) (view : List ClaimEntry) :
    standingOf k urgency addr view = .waiting ↔
      128 ≤ urgency ∧ k ≤ view.countP fun e => e.outranks urgency addr := by
  rcases lt_or_ge urgency 128 with hurgency | hurgency
  · simp [standingOf_unclaimed hurgency, hurgency]
  · simp [standingOf_claimed hurgency, hurgency]

/-- Settles O34: the entries that outrank the node come first, so K of them are in the view exactly when the K-th entry
is one. -/
theorem theKthEntryDecidesTheStanding : Obligations.TheKthEntryDecidesTheStanding := by
  unfold Obligations.TheKthEntryDecidesTheStanding
  intro k urgency addr view hk hranked
  simp only [← ClaimEntry.outranks_iff, Bool.decide_eq_true]
  refine ⟨standingOf_eq_none_iff k urgency addr view, standingOf_eq_granted_iff k urgency addr view,
    fun hclaim => ?waiting⟩
  case waiting =>
    rw [standingOf_eq_waiting_iff, and_iff_right hclaim, ← Ranked.lt_countP_outranks_iff hranked,
      Nat.sub_lt_iff_lt_add hk, Nat.lt_add_one_iff]

end Sys2Proof.Machine
end

section
/-! SUPPORT. The claim refresh (R90, R135): the copy moves the announced values and the standing, which the queue does
not read, and the table of R135 is read off the two urgencies. -/

namespace Sys2Proof.Machine

open Sys2Proof

/-! ### The queue and the announced values -/

/-- The state with another forecast and another standing, the two that a copy moves. -/
def State.withAnnounced (s : State) (forecast : Forecast) (standing : Standing) : State :=
  { s with forecast := forecast, planner := { s.planner with standing := standing } }

/-- A copy announces the pending values, with the standing they give (R90, R146). -/
theorem State.copyAnnounced_eq (s : State) :
    s.copyAnnounced =
      s.withAnnounced { s.forecast with announced := s.forecast.pending }
        (standingOf s.cfg.k s.forecast.pending.urgency s.straps.addr s.planner.view) := rfl

section Queue

variable (s : State) (forecast : Forecast) (standing : Standing) (n : Notice)

theorem State.tellLost_withAnnounced :
    (s.withAnnounced forecast standing).tellLost n = (s.tellLost n).withAnnounced forecast standing := by
  simp only [State.tellLost_eq]
  rfl

theorem State.discard_withAnnounced :
    (s.withAnnounced forecast standing).discard n = (s.discard n).withAnnounced forecast standing := by
  rw [State.discard, State.discard, apply_ite (State.withAnnounced · forecast standing)]
  rfl

theorem State.offerPlain_withAnnounced :
    (s.withAnnounced forecast standing).offerPlain n = (s.offerPlain n).withAnnounced forecast standing := by
  by_cases hroom : s.queued < Config.queuePlaces
  · rw [State.offerPlain_room hroom, State.offerPlain_room (s := s.withAnnounced forecast standing) hroom]
    rfl
  by_cases hevicts : ∃ last, s.queue.waiting.getLast? = some last ∧ n.header s.straps.addr < last.header s.straps.addr
  · obtain ⟨last, hlast, hheader⟩ := hevicts
    rw [State.offerPlain_evict hroom hlast hheader,
      State.offerPlain_evict (s := s.withAnnounced forecast standing) hroom hlast hheader,
      ← State.tellLost_withAnnounced]
    rfl
  · have hdrops : ∀ last, s.queue.waiting.getLast? = some last →
        ¬n.header s.straps.addr < last.header s.straps.addr := fun last hlast hheader => hevicts ⟨last, hlast, hheader⟩
    rw [State.offerPlain_drop hroom hdrops, State.offerPlain_drop (s := s.withAnnounced forecast standing) hroom hdrops,
      ← State.tellLost_withAnnounced]
    rfl

/-- Handing a notice over neither reads nor changes the forecast and the standing. -/
theorem State.offer_withAnnounced :
    (s.withAnnounced forecast standing).offer n = (s.offer n).withAnnounced forecast standing := by
  cases hsilenced : s.silenced with
  | true =>
    rw [State.offer_silenced hsilenced, State.offer_silenced (s := s.withAnnounced forecast standing) hsilenced]
    exact s.discard_withAnnounced forecast standing n
  | false =>
    by_cases hplain : n.body.isClaimKind = true → hasClaimKind s.queue.waiting = false ∧ s.sendingClaimKind = false
    · rw [State.offer_plain hsilenced hplain,
        State.offer_plain (s := s.withAnnounced forecast standing) hsilenced hplain]
      exact s.offerPlain_withAnnounced forecast standing n
    obtain ⟨hkind, hshares⟩ := Classical.not_imp.1 hplain
    cases hwaits : hasClaimKind s.queue.waiting with
    | true =>
      rw [State.offer_replaces hsilenced hkind hwaits,
        State.offer_replaces (s := s.withAnnounced forecast standing) hsilenced hkind hwaits]
      rfl
    | false =>
      have hsends : s.sendingClaimKind = true := by simpa [hwaits] using hshares
      rw [State.offer_held hsilenced hkind hwaits hsends,
        State.offer_held (s := s.withAnnounced forecast standing) hsilenced hkind hwaits hsends]
      rfl

end Queue

/-! ### CLAIM_REFRESH -/

theorem State.ownClaim_iff (s : State) : s.ownClaim = true ↔ 128 ≤ s.forecast.announced.urgency := decide_eq_true_iff

/-- The table of R135 after a copy: the notice is handed over as before the copy. -/
theorem State.copyAnnounced_claimDecision (s : State) :
    s.copyAnnounced.claimDecision s.ownClaim =
      (if 128 ≤ s.forecast.pending.urgency then
          s.offer { priority := 255 - s.forecast.pending.urgency, body := .claim s.forecast.pending }
        else if 128 ≤ s.forecast.announced.urgency then s.offer withdrawNotice
        else s).withAnnounced { s.forecast with announced := s.forecast.pending }
          (standingOf s.cfg.k s.forecast.pending.urgency s.straps.addr s.planner.view) := by
  simp only [State.claimDecision, State.ownClaim_iff, State.copyAnnounced_forecast]
  split
  next hheld => exact s.offer_withAnnounced _ _ _
  next hnone =>
    split
    next hended => exact s.offer_withAnnounced _ _ _
    next hunclaimed => exact s.copyAnnounced_eq

theorem exec_claimRefresh_operating {s : State} (hnode : s.node = .operating) :
    exec .claimRefresh s = .next (s.copyAnnounced.claimDecision s.ownClaim).settle :=
  if_pos (by simp [State.operating, hnode])

/-- Settles O20: the notice of R135, and around it the copy and the standing. -/
theorem claimRefreshCopiesAndClaims : Obligations.ClaimRefreshCopiesAndClaims := by
  unfold Obligations.ClaimRefreshCopiesAndClaims
  intro s hnode v queued
  refine ⟨_, exec_claimRefresh_operating hnode, ?_⟩
  rw [State.settle_eq, State.copyAnnounced_claimDecision]
  rfl

end Sys2Proof.Machine
end

section
/-! SUPPORT. The orders of an entry to SERVICING (R156, R163 to R165): the due slots in the order of their orders, what
appending several orders writes, and the completed TAKEN that asks for them. -/

namespace Sys2Proof.Machine

open Sys2Proof

/-! ### The due slots in the order of R165 -/

/-- The slot of higher urgency comes first, and among equal urgencies the lower slot (R165). -/
abbrev DueBefore (comps : List Component) (i j : Nat) : Prop :=
  (comps.getD j .zero).urgency < (comps.getD i .zero).urgency ∨
    ((comps.getD i .zero).urgency = (comps.getD j .zero).urgency ∧ i < j)

/-- A slot lower than every slot of the list is placed where its urgency puts it. -/
theorem insertDue_pairwise {comps : List Component} {i : Nat} {l : List Nat} (hlower : ∀ j ∈ l, i < j)
    (hsorted : l.Pairwise (DueBefore comps)) : (insertDue comps i l).Pairwise (DueBefore comps) := by
  induction l with
  | nil => exact List.pairwise_singleton _ i
  | cons j js ih =>
    obtain ⟨hij, hijs⟩ := List.forall_mem_cons.1 hlower
    obtain ⟨hj, hjs⟩ := List.pairwise_cons.1 hsorted
    rw [insertDue]
    split
    next hle =>
      refine List.pairwise_cons.2 ⟨List.forall_mem_cons.2 ⟨by omega, fun x hx => ?later⟩, hsorted⟩
      case later =>
        have hjx := hj x hx
        have hix := hijs x hx
        omega
    next hgt =>
      refine List.pairwise_cons.2 ⟨fun x hx => ?_, ih hijs hjs⟩
      rcases List.mem_cons.1 ((insertDue_perm comps i js).subset hx) with rfl | hxjs
      · exact .inl (not_le.1 hgt)
      · exact hj x hxjs

theorem sortDue_pairwise {comps : List Component} {l : List Nat} (hascending : l.Pairwise (· < ·)) :
    (sortDue comps l).Pairwise (DueBefore comps) := by
  induction l with
  | nil => exact List.Pairwise.nil
  | cons i is ih =>
    obtain ⟨hi, his⟩ := List.pairwise_cons.1 hascending
    exact insertDue_pairwise (fun j hj => hi j ((sortDue_perm comps is).subset hj)) (ih his)

theorem dueSlots_pairwise_lt (start : Nat) (slots : List SlotConfig) (comps : List Component) :
    (dueSlots start slots comps).Pairwise (· < ·) := by
  fun_induction dueSlots start slots comps with
  | case1 start sl slots c comps hdue ih =>
    exact List.pairwise_cons.2 ⟨fun j hj => ((mem_dueSlots (start + 1) slots comps j).1 hj).1, ih⟩
  | case2 start sl slots c comps hnot ih => exact ih
  | case3 => exact List.Pairwise.nil

/-- The slots that receive an order at an entry to SERVICING, first order first (R165). -/
def State.dueOrder (s : State) : List Nat := sortDue s.comps (dueSlots 0 s.cfg.slots s.comps)

theorem State.appendDue_eq (s : State) : s.appendDue = s.appendOrders s.dueOrder := rfl

theorem State.dueOrder_pairwise (s : State) : s.dueOrder.Pairwise (DueBefore s.comps) :=
  sortDue_pairwise (dueSlots_pairwise_lt 0 s.cfg.slots s.comps)

section FullTable

variable {s : State}

theorem State.dueOrder_perm (hslots : s.cfg.slots.length = Config.slots) (hcomps : s.comps.length = Config.slots) :
    s.dueOrder.Perm
      ((List.range Config.slots).filter fun i =>
        (s.cfg.slot i).present && decide (Config.dueUrgency ≤ (s.comp i).urgency) && !(s.comp i).openOrder) := by
  have hdue : (dueSlots 0 s.cfg.slots s.comps).Nodup := (dueSlots_pairwise_lt 0 _ _).imp Nat.ne_of_lt
  refine (sortDue_perm s.comps _).trans
    ((List.perm_ext_iff_of_nodup hdue (List.nodup_range.filter _)).2 fun i => ?_)
  simp [mem_dueSlots, hslots, hcomps, Configuration.slot, State.comp, and_assoc]

theorem State.mem_dueOrder_lt (hslots : s.cfg.slots.length = Config.slots) (hcomps : s.comps.length = Config.slots) :
    ∀ i ∈ s.dueOrder, i < s.comps.length := fun _ hi =>
  hcomps ▸ List.mem_range.1 (List.mem_of_mem_filter ((s.dueOrder_perm hslots hcomps).subset hi))

theorem State.dueOrder_length_le (hslots : s.cfg.slots.length = Config.slots)
    (hcomps : s.comps.length = Config.slots) : s.dueOrder.length ≤ Config.slots :=
  calc s.dueOrder.length = _ := (s.dueOrder_perm hslots hcomps).length_eq
    _ ≤ (List.range Config.slots).length := List.length_filter_le _ _
    _ = Config.slots := List.length_range

end FullTable

/-! ### Appending orders -/

/-- The order that R165 gives a slot, in the window of the state. -/
def State.orderFor (s : State) (slot : Nat) : OrderRecord :=
  { slot := slot, action := .replace, wearAtIssue := (s.comp slot).wear, urgencyAtIssue := (s.comp slot).urgency
    windowAtIssue := s.planner.windowCount, status := .opened, windowAtClose := 0 }

/-- What the ring holds at a position: the order record and its changed mark. -/
def OrderList.entry (o : OrderList) (position : Nat) : OrderRecord × Bool :=
  (o.at position, o.marks.getD position false)

theorem OrderList.entry_eq_iff {o : OrderList} {position : Nat} {r : OrderRecord} {mark : Bool} :
    o.entry position = (r, mark) ↔ o.at position = r ∧ o.marks.getD position false = mark := Prod.mk_inj

/-- The ring and its changed marks have their 32 positions, and the tail is one of them (R164). -/
structure OrderList.Sized (o : OrderList) : Prop where
  ring : o.ring.length = Config.slots
  marks : o.marks.length = Config.slots
  tail : o.tail < Config.slots

theorem orders_sized_of_widthLaw {s : State} (hwidth : WidthLaw s) : s.orders.Sized := by
  obtain ⟨-, -, -, -, -, -, -, -, -, -, -, -, ⟨hring, -⟩, hmarks, -, htail, -⟩ := hwidth
  exact ⟨hring, hmarks, htail⟩

/-- The position `j` places after the tail (R164). -/
abbrev OrderList.place (o : OrderList) (j : Nat) : Nat := (o.tail + j) % Config.slots

section Append

variable {s : State} {slot : Nat}

@[simp] theorem State.appendOrder_tail (s : State) (slot : Nat) :
    (s.appendOrder slot).orders.tail = nextPosition s.orders.tail := rfl

@[simp] theorem State.appendOrder_marks (s : State) (slot : Nat) :
    (s.appendOrder slot).orders.marks = s.orders.marks.set s.orders.tail true := rfl

theorem State.appendOrder_comp (hslot : slot < s.comps.length) (i : Nat) :
    (s.appendOrder slot).comp i = if i = slot then { s.comp slot with openOrder := true } else s.comp i :=
  State.setFlag_comp s slot true i hslot

@[simp] theorem State.appendOrder_comps_length (s : State) (slot : Nat) :
    (s.appendOrder slot).comps.length = s.comps.length := List.length_set

/-- The values of an order do not depend on the flag that an append sets. -/
theorem State.appendOrder_orderFor (hslot : slot < s.comps.length) (i : Nat) :
    (s.appendOrder slot).orderFor i = s.orderFor i := by
  rw [State.orderFor, State.orderFor, State.appendOrder_comp hslot, State.appendOrder_planner]
  split
  next heq => rw [heq]
  next => rfl

/-- An append writes and marks the position at the tail, and no other. -/
theorem State.appendOrder_entry (hsized : s.orders.Sized) (slot p : Nat) :
    (s.appendOrder slot).orders.entry p =
      if p = s.orders.tail then (s.orderFor slot, true) else s.orders.entry p := by
  have hat : (s.appendOrder slot).orders.at p = if p = s.orders.tail then s.orderFor slot else s.orders.at p :=
    OrderList.at_set s.orders s.orders.tail (s.orderFor slot) p (hsized.ring ▸ hsized.tail)
  have hmark : (s.appendOrder slot).orders.marks.getD p false =
      if p = s.orders.tail then true else s.orders.marks.getD p false := by
    have htail := hsized.marks ▸ hsized.tail
    rw [State.appendOrder_marks]
    by_cases hp : p = s.orders.tail
    · simp [hp, htail]
    · simp [hp, Ne.symm hp]
  rw [OrderList.entry_eq_iff.2 ⟨hat, hmark⟩]
  split <;> rfl

theorem State.appendOrder_sized (hsized : s.orders.Sized) (slot : Nat) : (s.appendOrder slot).orders.Sized where
  ring := List.length_set.trans hsized.ring
  marks := List.length_set.trans hsized.marks
  tail := nextPosition_lt s.orders.tail

/-- After an append the places from the tail on are those that followed the first. -/
theorem State.appendOrder_place (s : State) (slot j : Nat) :
    (s.appendOrder slot).orders.place j = s.orders.place (j + 1) := by
  simp only [OrderList.place, State.appendOrder_tail, nextPosition, Nat.mod_add_mod]
  rw [Nat.add_assoc, Nat.add_comm 1]

end Append

theorem OrderList.Sized.place_zero {o : OrderList} (hsized : o.Sized) : o.place 0 = o.tail :=
  Nat.mod_eq_of_lt hsized.tail

/-- A place after the first is not the tail, as long as the ring is not passed once around. -/
theorem OrderList.Sized.place_succ_ne_tail {o : OrderList} (hsized : o.Sized) {j : Nat} (hj : j + 1 < Config.slots) :
    o.place (j + 1) ≠ o.tail := by
  have htail := hsized.tail
  simp only [OrderList.place, Config.slots] at *
  omega

section AppendAll

variable {s : State} {l : List Nat}

theorem State.appendOrders_sized (hsized : s.orders.Sized) (l : List Nat) : (s.appendOrders l).orders.Sized := by
  induction l generalizing s with
  | nil => exact hsized
  | cons i is ih => exact ih (State.appendOrder_sized hsized i)

/-- The head stays; the tail and the open count move by the number of orders (R164). -/
theorem State.appendOrders_orders (hsized : s.orders.Sized) (l : List Nat) :
    (s.appendOrders l).orders =
      { ring := (s.appendOrders l).orders.ring, marks := (s.appendOrders l).orders.marks, head := s.orders.head
        tail := s.orders.place l.length, openCount := s.orders.openCount + l.length } := by
  induction l generalizing s with
  | nil =>
    rw [List.length_nil, hsized.place_zero]
    rfl
  | cons i is ih =>
    rw [State.appendOrders, ih (State.appendOrder_sized hsized i), State.appendOrder_place]
    simp [State.appendOrder, Nat.add_assoc, Nat.add_comm 1]

/-- Positions that no order takes stay as they are. -/
theorem State.appendOrders_entry_other (hsized : s.orders.Sized) {p : Nat}
    (hother : ∀ j < l.length, p ≠ s.orders.place j) : (s.appendOrders l).orders.entry p = s.orders.entry p := by
  induction l generalizing s with
  | nil => rfl
  | cons i is ih =>
    have hlater : ∀ j < is.length, p ≠ (s.appendOrder i).orders.place j := fun j hj => by
      rw [State.appendOrder_place]
      exact hother (j + 1) (Nat.succ_lt_succ hj)
    have htail : p ≠ s.orders.tail := hsized.place_zero ▸ hother 0 (Nat.succ_pos _)
    rw [State.appendOrders, ih (State.appendOrder_sized hsized i) hlater, State.appendOrder_entry hsized, if_neg htail]

/-- The orders stand from the tail on, marked, each with the values of the state before them (R165). -/
theorem State.appendOrders_entry (hsized : s.orders.Sized) (hslots : ∀ i ∈ l, i < s.comps.length)
    (hroom : l.length ≤ Config.slots) {j slot : Nat} (hj : l[j]? = some slot) :
    (s.appendOrders l).orders.entry (s.orders.place j) = (s.orderFor slot, true) := by
  induction l generalizing s j with
  | nil => simp at hj
  | cons i is ih =>
    obtain ⟨hi, his⟩ := List.forall_mem_cons.1 hslots
    have hsized' := State.appendOrder_sized hsized i
    cases j with
    | zero =>
      obtain rfl : i = slot := by simpa using hj
      have hother : ∀ j < is.length, s.orders.place 0 ≠ (s.appendOrder i).orders.place j := fun j hj => by
        rw [State.appendOrder_place, hsized.place_zero]
        exact (hsized.place_succ_ne_tail (lt_of_lt_of_le (Nat.succ_lt_succ hj) hroom)).symm
      rw [State.appendOrders, State.appendOrders_entry_other hsized' hother, State.appendOrder_entry hsized,
        if_pos hsized.place_zero]
    | succ j =>
      rw [State.appendOrders, ← State.appendOrder_place s i, ← State.appendOrder_orderFor hi]
      exact ih hsized' (by simpa using his) (Nat.le_of_succ_le hroom) (by simpa using hj)

/-- Each order sets the flag of its slot, and of the records nothing else changes (R55). -/
theorem State.appendOrders_comp (hslots : ∀ i ∈ l, i < s.comps.length) (i : Nat) :
    (s.appendOrders l).comp i = { s.comp i with openOrder := (s.comp i).openOrder || decide (i ∈ l) } := by
  induction l generalizing s with
  | nil => simp [State.appendOrders]
  | cons k ks ih =>
    obtain ⟨hk, hks⟩ := List.forall_mem_cons.1 hslots
    rw [State.appendOrders, ih (by simpa using hks), State.appendOrder_comp hk]
    by_cases hik : i = k
    · simp [hik]
    · simp [hik]

end AppendAll

/-! ### The completed TAKEN -/

/-- The state after the own unmarked TAKEN completed, before the Order List appends (R109, R156). -/
def State.placeTaken (s : State) : State :=
  { s with
    bus := { s.bus with activity := .waiting, faultCount := s.bus.faultCount - 1 }
    planner :=
      { s.planner with
        window := .servicing
        takenOwed := false
        takenSet :=
          if s.straps.addr ∈ s.planner.takenSet then s.planner.takenSet
          else s.planner.takenSet ++ [s.straps.addr] } }

/-- A contending node finds a place for its own address: the set holds fewer than K, which is at most eight. -/
theorem addTaken_of_contending {s : State} (hconfig : ConfigLaw s) (hplanner : PlannerLaw s)
    (hwindow : s.planner.window = .contending) (a : Addr) :
    addTaken s.planner.takenSet a =
      if a ∈ s.planner.takenSet then s.planner.takenSet else s.planner.takenSet ++ [a] := by
  obtain ⟨hranges, -⟩ := hconfig
  obtain ⟨⟨-, hk⟩, -⟩ := hranges s.cfg (by simp)
  obtain ⟨-, -, -, -, -, -, -, -, -, hcontending⟩ := hplanner
  have hroom : ¬Config.takenPlaces ≤ s.planner.takenSet.length := ((hcontending hwindow).trans_le hk).not_ge
  simp only [addTaken_eq, hroom, or_false]

/-- A successor is held only behind a CLAIM or WITHDRAW (R123). -/
theorem held_eq_none_of_taken {s : State} {priority : Nat} {values : TakenValues} (hqueue : QueueLaw s)
    (hsending : s.inFlight = some { priority := priority, body := .taken values }) : s.queue.held = none := by
  obtain ⟨-, -, -, -, -, hheld, -⟩ := hqueue
  by_contra hsome
  have hclaim := hheld (Option.isSome_iff_ne_none.2 hsome)
  simp [State.sends, hsending, NoticeBody.isClaimKind] at hclaim

/-- With nothing held and no mark, a completion leaves the waiting notices as they are. -/
theorem State.dropCompleted_of_idle {s : State} (hheld : s.queue.held = none) (hmark : s.queue.removalMark = false) :
    s.dropCompleted = s := by
  have hqueue : s.queue = { s.queue with held := none, removalMark := false } := by rw [← hheld, ← hmark]
  rw [State.dropCompleted, hheld]
  exact congrArg (fun queue => { s with queue := queue }) hqueue.symm

theorem exec_frameComplete_taken {s : State} {priority : Nat} {values : TakenValues} (witnessed : Bool)
    (hconfig : ConfigLaw s) (hplanner : PlannerLaw s) (hqueue : QueueLaw s)
    (hwindow : s.planner.window = .contending) (hmark : s.queue.removalMark = false)
    (hsending : s.inFlight = some { priority := priority, body := .taken values }) :
    exec (.frameComplete witnessed) s = .next (s.placeTaken.appendOrders s.dueOrder).settle := by
  have hheld := held_eq_none_of_taken hqueue hsending
  have hset := addTaken_of_contending hconfig hplanner hwindow s.straps.addr
  change execFrameComplete witnessed s = _
  rw [execFrameComplete, hsending]
  simp only [done, hmark, State.tellCompleted, Bool.false_eq_true, if_false]
  have hqueued := State.dropCompleted_of_idle
    (s := s.setBus { s.bus with activity := .waiting, faultCount := s.bus.faultCount - 1 }) hheld hmark
  rw [hqueued, State.takenCompleted, State.setBus_planner, if_pos hwindow, State.appendDue_eq, State.placeTaken,
    ← hset]
  rfl

/-- Settles O36: the due slots in the order of R165, and the orders that an append of that list writes. -/
theorem completedTakenAppendsTheDueOrders : Obligations.CompletedTakenAppendsTheDueOrders := by
  unfold Obligations.CompletedTakenAppendsTheDueOrders
  intro witnessed values priority s _ hconfig hwidth hplanner hqueue hwindow hmark hsending
  have hslots := slots_length_of_configLaw hconfig
  obtain ⟨hcomps, -⟩ := comps_of_widthLaw hwidth
  have hsized : s.placeTaken.orders.Sized := orders_sized_of_widthLaw hwidth
  have hdue := State.mem_dueOrder_lt hslots hcomps
  have hroom := State.dueOrder_length_le hslots hcomps
  have hsized' := State.appendOrders_sized hsized s.dueOrder
  refine ⟨(s.placeTaken.appendOrders s.dueOrder).settle, s.dueOrder,
    exec_frameComplete_taken witnessed hconfig hplanner hqueue hwindow hmark hsending,
    State.dueOrder_perm hslots hcomps, s.dueOrder_pairwise, fun j slot hj => ?orders, fun p _ hother => ?others,
    ⟨hsized'.ring, hsized'.marks⟩, State.appendOrders_comp (s := s.placeTaken) hdue, ?frame⟩
  case orders => exact OrderList.entry_eq_iff.1 (State.appendOrders_entry hsized hdue hroom hj)
  case others => exact OrderList.entry_eq_iff.1 (State.appendOrders_entry_other hsized hother)
  case frame =>
    have hnode : (!s.dueOrder.isEmpty) = decide (s.dueOrder ≠ []) := by cases s.dueOrder <;> rfl
    rw [← hnode, State.settle_eq, State.appendOrders_frame, State.appendOrders_orders hsized]
    rfl

end Sys2Proof.Machine
end

section
/-! SUPPORT. What a step can do, said once: each command is a run of moves, one for each operation that the laws of
Sys2Proof/Safety.lean speak of. A law that every move keeps is then kept by every command. -/

namespace Sys2Proof.Machine

open Sys2Proof

/-! ### Moves -/

/-- The laws of the Piece Tracker, which speak of the tracker alone. -/
abbrev Tracker.Lawful (t : Tracker) : Prop := TrackerLaw { State.reset with tracker := t }

/-- The fields that no law reads: handed work, choices, pins, the queue of commands, two marks of the store. -/
def State.setAgenda (s : State) (handed : List Instr) (choices : Nat) (pins : Pins) (pending : List Instr)
    (nodeMarked labelTaken : Bool) : State :=
  { s with
    handed := handed, choices := choices, pins := pins, pending := pending
    account := { s.account with nodeMarked := nodeMarked, labelTaken := labelTaken } }

/-- Put the Line Input Unit's state. -/
def State.setLines (s : State) (lines : LineUnit) : State := { s with lines := lines }

/-- Put the Piece Tracker's state. -/
def State.setTracker (s : State) (tracker : Tracker) : State := { s with tracker := tracker }

/-- Put the component table, whose node values stay. -/
def State.putComps (s : State) (comps : List Component) : State := { s with comps := comps }

/-- An edge of MOTOR_RUN (R5, R17): RUNNING and STOPPED follow it, JAMMED stays. -/
def State.turnMotor (s : State) (high : Bool) : State :=
  { s with
    lines := { s.lines with levels := s.lines.levels.put .motorRun high }
    tracker :=
      { s.tracker with
        sectionState :=
          if s.tracker.sectionState = .jammed then .jammed else if high then .running else .stopped } }

/-- The window closes with the falling edge of MAINT (R160). -/
def State.closeWindow (s : State) : State :=
  let s1 := (s.setLines { s.lines with levels := s.lines.levels.put .maint false }).removeTaken
  s1.setPlanner
    { s1.planner with
      takenSet := [], pendingHold := none, window := .closed, takenValues := none, takenOwed := false }

/-- A completed notice leaves the queue and the controller waits (R109, R111, R122, R123). -/
def State.completeFrame (s : State) : State :=
  (s.setBus { s.bus with activity := .waiting, faultCount := s.bus.faultCount - 1 }).dropCompleted

/-- The own TAKEN completed (R156): the own address joins the set, the state is SERVICING. -/
def State.enterServicing (s : State) : State :=
  s.setPlanner
    { s.planner with
      takenSet := addTaken s.planner.takenSet s.straps.addr, window := .servicing, takenOwed := false }

/-- One operation of a command. `C` names the slots whose REPLACE the command brings about. -/
inductive Move (C : Nat → Prop) : State → State → Prop
  | agenda (s : State) (handed : List Instr) (choices : Nat) (pins : Pins) (pending : List Instr)
      (nodeMarked labelTaken : Bool) : Move C s (s.setAgenda handed choices pins pending nodeMarked labelTaken)
  -- the Line Input Unit and the Piece Tracker
  | levels (s : State) (levels : Levels) (hmotor : levels.motorRun.level = s.lines.levels.motorRun.level)
      (hmaint : s.lines.levels.maint.level = true → levels.maint.level = true) :
      Move C s (s.setLines { s.lines with levels := levels })
  | counts (s : State) (counts : List Nat) (hnode : s.node = .operating)
      (hkept : (s.lines.counts.length = Config.lines ∧ ∀ n ∈ s.lines.counts, n ≤ Config.countTop) →
        counts.length = Config.lines ∧ ∀ n ∈ counts, n ≤ Config.countTop) :
      Move C s (s.setLines { s.lines with counts := counts })
  | lineTick (s : State) (levels : Levels) (hnode : s.node = .operating)
      (hmotor : levels.motorRun.level = s.lines.levels.motorRun.level)
      (hmaint : levels.maint.level = s.lines.levels.maint.level) : Move C s (s.setLines (s.lines.tick levels))
  | endHour (s : State) (hnode : s.node = .operating) : Move C s (s.setLines s.lines.endHour)
  | track (s : State) (tracker : Tracker) (hnode : s.node = .operating)
      (hkept : s.tracker.Lawful → tracker.Lawful)
      (hsection : tracker.sectionState = s.tracker.sectionState ∨ tracker.sectionState = .jammed ∨
        (tracker.sectionState = .stopped ∧ s.lines.levels.motorRun.level = false)) :
      Move C s (s.setTracker tracker)
  | turnMotor (s : State) (high : Bool) (hnode : s.node = .operating) : Move C s (s.turnMotor high)
  -- the component table and the work-order list
  | credit (s : State) (increment : SlotConfig → Component → Nat) (hnode : s.node = .operating)
      (hnone : ∀ slot, ¬C slot) :
      Move C s (s.setComps (mapSlots (fun sl c => c.credit s.cfg sl (increment sl c)) s.cfg.slots s.comps))
  | hour (s : State) (hnode : s.node = .operating) :
      Move C s (s.setComps (mapSlots (Component.hour s.cfg) s.cfg.slots s.comps))
  | measure (s : State) (counts : List Nat) (encoder : Nat) (hnode : s.node = .operating) :
      Move C s (s.putComps (mapSlots (Component.measure s.cfg counts encoder) s.cfg.slots s.comps))
  | replace (s : State) (slot : Nat) (hnode : s.node = .operating) (hslot : C slot)
      (hpresent : (s.cfg.slot slot).present = true) :
      Move C s (s.setComps (s.comps.set slot ((s.comp slot).replaced s.cfg (s.cfg.slot slot))))
  | appendDue (s : State) : Move C s s.appendDue
  | closeHead (s : State) (outcome : OrderStatus) (hnode : s.node = .operating) (hopen : 0 < s.orders.openCount)
      (hclosed : outcome ≠ .opened) : Move C s (s.closeHead outcome)
  | writeRecord (s : State) (name : RecordName) (hnode : s.node = .operating) : Move C s (s.writeRecord name)
  | setDue (s : State) (due : List RecordName) (hnode : s.node = .operating) : Move C s (s.setDue due)
  -- the Service Planner
  | plannerTick (s : State) (hnode : s.node = .operating) : Move C s (s.setPlanner s.planner.tick)
  | copyAnnounced (s : State) (hnode : s.node = .operating) : Move C s s.copyAnnounced
  | hearClaim (s : State) (source : Addr) (urgency : Byte) (hhears : s.plannerHears source = true) :
      Move C s (s.hearClaim source urgency)
  | filterView (s : State) (keep : ClaimEntry → Bool) (hnode : s.node = .operating) :
      Move C s (s.setView (s.planner.view.filter keep))
  | openWindow (s : State) (hnode : s.node = .operating)
      (hwindow : s.planner.window = .closed ∨ s.planner.window = .pending)
      (hmaint : s.lines.levels.maint.level = true) : Move C s s.openWindow
  | closeWindow (s : State) (hnode : s.node = .operating) : Move C s s.closeWindow
  | endPending (s : State) (hnode : s.node = .operating) (hwindow : s.planner.window = .pending) :
      Move C s (s.setPlanner { s.planner with takenSet := [], pendingHold := none, window := .closed })
  | hearTaken (s : State) (source : Addr) (hhears : s.plannerHears source = true) : Move C s (s.hearTaken source)
  | retryTaken (s : State) (hnode : s.node = .operating) : Move C s s.retryTaken
  -- the transmit queue, the Query Responder and the Line Bus Controller
  | offer (s : State) (n : Notice) (hnode : s.node = .operating) (htaken : n.body.isTaken = false)
      (hreport : n.body.isReport = false) : Move C s (s.offer n)
  | takeQuery (s : State) (kind : QueryKind) (querier : Addr) (arg : BitVec 5) (hrunning : s.running = true)
      (hheard : s.silenced = false) (hfree : s.query = none) : Move C s (s.takeQuery kind querier arg)
  | busIdle (s : State) (hrunning : s.running = true) (hfree : s.inFlight = none) :
      Move C s (s.setBus { s.bus with view := .idle, activity := s.bus.activity.atIdle, seenIdle := true })
  | beginReception (s : State) (hrunning : s.running = true) : Move C s s.beginReception
  | beginSending (s : State) (hmay : s.maySend = true) : Move C s s.beginSending
  | lose (s : State) (n : Notice) (hsends : s.inFlight = some n) :
      Move C s ((s.setBus { s.bus with activity := .receiving }).takeBack n)
  | abort (s : State) (n : Notice) (hsends : s.inFlight = some n) : Move C s ((s.setBus s.bus.aborted).takeBack n)
  | complete (s : State) (n : Notice) (hsends : s.inFlight = some n) :
      Move C s { s.completeFrame with query := if n.body.isReport = true then none else s.query }
  | completeTaken (s : State) (n : Notice) (hsends : s.inFlight = some n) (htaken : n.body.isTaken = true)
      (hunmarked : s.queue.removalMark = false) (hwindow : s.planner.window = .contending) :
      Move C s s.completeFrame.enterServicing
  | endReception (s : State) (activity : Activity) (hreads : s.reads = true)
      (hactivity : activity = .waiting ∨ activity = .awaitingIdle) : Move C s (s.endReception activity)
  | enterSilenced (s : State) (hrunning : s.running = true) (hwaits : s.bus.activity = .waiting) :
      Move C s s.enterSilenced
  | setWitness (s : State) (driven : Bool) (hrunning : s.running = true) : Move C s (s.setWitness driven)
  | muteEnd (s : State) (hrunning : s.running = true) (hmute : s.bus.muteMs.isSome = true) :
      Move C s
        (s.setBus
          { s.bus with
            mode := if s.bus.mode = .mute then .active else s.bus.mode, muteMs := none, faultCount := 0 })
  -- commissioning
  | stage (s : State) (staging : Configuration) (hnode : s.node = .commissioning)
      (hkept : s.account.staging.InRange → staging.InRange) : Move C s (s.stage staging)
  | commit (s : State) (hnode : s.node = .commissioning) (hpasses : commitResult s.account.staging = 1) :
      Move C s { s.committed with account := { s.committed.account with writes := s.commitWrites } }
  | recordCommit (s : State) (result : Nat) (hnode : s.node = .commissioning) (hresult : result ≤ 13) :
      Move C s (s.recordCommit result)
  | finishWrites (s : State) : Move C s s.finishWrites

/-- A run of moves. -/
abbrev Moves (C : Nat → Prop) : State → State → Prop := Relation.ReflTransGen (Move C)

/-- A law that every move keeps is kept by every run of moves. -/
theorem Moves.keeps {C : Nat → Prop} {s t : State} (hmoves : Moves C s t) {P : State → Prop}
    (hmove : ∀ u v, Move C u v → P u → P v) (hs : P s) : P t := by
  induction hmoves with
  | refl => exact hs
  | tail _ hlast ih => exact hmove _ _ hlast ih

end Sys2Proof.Machine
end

section
/-! SUPPORT. The frame of the operations that hand notices over, and what a move leaves. -/

namespace Sys2Proof.Machine

open Sys2Proof

/-! ### Handing a notice over -/

section Offer

variable (s : State) (n : Notice)

@[simp] theorem State.offer_power : (s.offer n).power = s.power := by rw [s.offer_frame]; rfl
@[simp] theorem State.offer_node : (s.offer n).node = s.node := by rw [s.offer_frame]; rfl
@[simp] theorem State.offer_resetLine : (s.offer n).resetLine = s.resetLine := by rw [s.offer_frame]; rfl
@[simp] theorem State.offer_straps : (s.offer n).straps = s.straps := by rw [s.offer_frame]; rfl
@[simp] theorem State.offer_cfg : (s.offer n).cfg = s.cfg := by rw [s.offer_frame]; rfl
@[simp] theorem State.offer_lines : (s.offer n).lines = s.lines := by rw [s.offer_frame]; rfl
@[simp] theorem State.offer_tracker : (s.offer n).tracker = s.tracker := by rw [s.offer_frame]; rfl
@[simp] theorem State.offer_comps : (s.offer n).comps = s.comps := by rw [s.offer_frame]; rfl
@[simp] theorem State.offer_forecast : (s.offer n).forecast = s.forecast := by rw [s.offer_frame]; rfl
@[simp] theorem State.offer_orders : (s.offer n).orders = s.orders := by rw [s.offer_frame]; rfl
@[simp] theorem State.offer_bus : (s.offer n).bus = s.bus := by rw [s.offer_frame]; rfl
@[simp] theorem State.offer_account : (s.offer n).account = s.account := by rw [s.offer_frame]; rfl
@[simp] theorem State.offer_out : (s.offer n).out = s.out := by rw [s.offer_frame]; rfl
@[simp] theorem State.offer_handed : (s.offer n).handed = s.handed := by rw [s.offer_frame]; rfl
@[simp] theorem State.offer_pending : (s.offer n).pending = s.pending := by rw [s.offer_frame]; rfl

end Offer

/-- The six ways a notice can be taken by the Notice Queue (R121 to R124, R127). -/
theorem State.offer_cases {P : State → Prop} {s : State} {n : Notice}
    (discards : s.silenced = true → P (s.discard n))
    (replaces : s.silenced = false → n.body.isClaimKind = true → hasClaimKind s.queue.waiting = true →
      P (s.setWaiting (joinAfter s.straps.addr n (s.queue.waiting.filter fun m => !m.body.isClaimKind))))
    (holds : s.silenced = false → n.body.isClaimKind = true → hasClaimKind s.queue.waiting = false →
      s.sendingClaimKind = true → P { s with queue := { s.queue with held := some n } })
    (joins : s.silenced = false →
      (n.body.isClaimKind = true → hasClaimKind s.queue.waiting = false ∧ s.sendingClaimKind = false) →
      s.queued < Config.queuePlaces → P (s.joinQueue n))
    (evicts : ∀ last, s.silenced = false →
      (n.body.isClaimKind = true → hasClaimKind s.queue.waiting = false ∧ s.sendingClaimKind = false) →
      s.queue.waiting.getLast? = some last →
      P (((s.countDropped.setWaiting s.queue.waiting.dropLast).joinQueue n).tellLost last))
    (drops : s.silenced = false → P (s.countDropped.tellLost n)) : P (s.offer n) := by
  cases hsilenced : s.silenced with
  | true => exact State.offer_silenced hsilenced ▸ discards hsilenced
  | false =>
    by_cases hplain : n.body.isClaimKind = true → hasClaimKind s.queue.waiting = false ∧ s.sendingClaimKind = false
    · rw [State.offer_plain hsilenced hplain]
      by_cases hroom : s.queued < Config.queuePlaces
      · exact State.offerPlain_room hroom ▸ joins hsilenced hplain hroom
      by_cases hevicts : ∃ last, s.queue.waiting.getLast? = some last ∧
          n.header s.straps.addr < last.header s.straps.addr
      · obtain ⟨last, hlast, hheader⟩ := hevicts
        exact State.offerPlain_evict hroom hlast hheader ▸ evicts last hsilenced hplain hlast
      · exact State.offerPlain_drop hroom (fun last hlast hheader => hevicts ⟨last, hlast, hheader⟩) ▸ drops hsilenced
    obtain ⟨hkind, hshares⟩ := Classical.not_imp.1 hplain
    cases hwaits : hasClaimKind s.queue.waiting with
    | true => exact State.offer_replaces hsilenced hkind hwaits ▸ replaces hsilenced hkind hwaits
    | false =>
      have hsends : s.sendingClaimKind = true := by simpa [hwaits] using hshares
      exact State.offer_held hsilenced hkind hwaits hsends ▸ holds hsilenced hkind hwaits hsends

/-- What handing a notice over does to the Service Planner: a TAKEN that is lost is owed, one discarded in SILENCED
defers the node; both in CONTENDING only (R126, R157). -/
theorem State.offer_planner (s : State) (n : Notice) :
    (s.offer n).planner =
      { s.planner with window := (s.offer n).planner.window, takenOwed := (s.offer n).planner.takenOwed } ∧
    ((s.offer n).planner.window = s.planner.window ∨
      (s.planner.window = .contending ∧ (s.offer n).planner.window = .deferred)) ∧
    ((s.offer n).planner.takenOwed = s.planner.takenOwed ∨ s.planner.window = .contending) := by
  refine State.offer_cases (P := fun u => u.planner = { s.planner with window := u.planner.window, takenOwed := u.planner.takenOwed } ∧
    (u.planner.window = s.planner.window ∨ (s.planner.window = .contending ∧ u.planner.window = .deferred)) ∧
    (u.planner.takenOwed = s.planner.takenOwed ∨ s.planner.window = .contending))
    (fun _ => ?discards) (fun _ _ _ => ⟨rfl, .inl rfl, .inl rfl⟩) (fun _ _ _ _ => ⟨rfl, .inl rfl, .inl rfl⟩)
    (fun _ _ _ => ⟨rfl, .inl rfl, .inl rfl⟩) (fun last _ _ _ => ?evicts) (fun _ => ?drops)
  case discards =>
    unfold State.discard
    split
    next hcontends => exact ⟨rfl, .inr ⟨hcontends.2, rfl⟩, .inl rfl⟩
    next => exact ⟨rfl, .inl rfl, .inl rfl⟩
  case evicts =>
    rw [State.tellLost_eq]
    refine ⟨rfl, .inl rfl, ?_⟩
    by_cases hcontends : s.planner.window = .contending <;> simp [hcontends]
  case drops =>
    rw [State.tellLost_eq]
    refine ⟨rfl, .inl rfl, ?_⟩
    by_cases hcontends : s.planner.window = .contending <;> simp [hcontends]

/-- Outside CONTENDING handing a notice over leaves the Service Planner. -/
theorem State.offer_planner_of_ne {s : State} (n : Notice) (hwindow : s.planner.window ≠ .contending) :
    (s.offer n).planner = s.planner := by
  obtain ⟨hframe, hw, ho⟩ := s.offer_planner n
  rw [hframe, hw.resolve_right fun h => hwindow h.1, ho.resolve_right hwindow]

/-! ### The frame of the other operations -/

section Frame

variable (s : State)

/-- Opening a window changes the announced values, the planner, the queue, the pending query and the node mark. -/
theorem State.openWindow_frame :
    s.openWindow =
      { s with
        forecast := { s.forecast with announced := s.forecast.pending }
        planner := s.openWindow.planner, queue := s.openWindow.queue, query := s.openWindow.query
        account := { s.account with nodeMarked := true } } := by
  have hdecide (u : State) : u.decideWindow = u.overlay u.decideWindow := by
    unfold State.decideWindow
    split
    · rfl
    split
    · dsimp only
      rw [State.offer_frame]
      rfl
    · rfl
  have hwithdraw (b : Bool) (u : State) : (if b then u.offer withdrawNotice else u) = u.overlay (if b then u.offer withdrawNotice else u) := by
    cases b
    · rfl
    · exact u.offer_frame withdrawNotice
  unfold State.openWindow
  dsimp only
  rw [hdecide, hwithdraw]
  rfl

/-- Hearing a TAKEN changes the planner and the queue only. -/
theorem State.hearTaken_frame (source : Addr) :
    s.hearTaken source =
      { s with planner := (s.hearTaken source).planner, queue := (s.hearTaken source).queue } := by
  unfold State.hearTaken
  split
  case h_2 => split <;> rfl
  all_goals rfl

/-- Handing an owed TAKEN over again changes what handing a notice over can change. -/
theorem State.retryTaken_frame : s.retryTaken = s.overlay s.retryTaken := by
  unfold State.retryTaken
  split
  · split
    · rw [State.offer_frame]
      rfl
    · rfl
  · rfl

/-- A taken query changes what handing its REPORT over can change. -/
theorem State.takeQuery_frame (kind : QueryKind) (querier : Addr) (arg : BitVec 5) :
    s.takeQuery kind querier arg = s.overlay (s.takeQuery kind querier arg) := by
  unfold State.takeQuery
  rw [State.offer_frame]
  rfl

/-- A notice taken back changes the queue only. -/
theorem State.takeBack_frame (n : Notice) : s.takeBack n = { s with queue := (s.takeBack n).queue } := by
  unfold State.takeBack
  split
  · rfl
  split
  · split <;> rfl
  · rfl

/-- The head notice's way into transmission changes the controller and the queue only. -/
theorem State.beginSending_frame :
    s.beginSending = { s with bus := s.beginSending.bus, queue := s.beginSending.queue } := by
  unfold State.beginSending
  split <;> rfl

/-- Entry to SERVICING appends what `State.appendOrders_frame` says. -/
theorem State.appendDue_frame :
    s.appendDue =
      { s with
        orders := s.appendDue.orders, comps := s.appendDue.comps
        account := { s.account with nodeMarked := s.account.nodeMarked || !s.dueOrder.isEmpty } } :=
  s.appendOrders_frame s.dueOrder

/-- Writing a record changes the table, the order list and the store only. -/
theorem State.writeRecord_frame (name : RecordName) :
    s.writeRecord name =
      { s with
        comps := (s.writeRecord name).comps
        orders := (s.writeRecord name).orders
        account := (s.writeRecord name).account } := by
  cases name <;> rfl

end Frame

/-! ### What a move leaves -/

/-- No move changes power, the state of the node, the RESET line, the straps or the outputs. -/
theorem Move.leaves {C : Nat → Prop} {s t : State} (hmove : Move C s t) :
    t.power = s.power ∧ t.node = s.node ∧ t.resetLine = s.resetLine ∧ t.straps = s.straps ∧ t.out = s.out := by
  cases hmove with
  | appendDue => rw [State.appendDue_frame]; exact ⟨rfl, rfl, rfl, rfl, rfl⟩
  | writeRecord => rw [State.writeRecord_frame]; exact ⟨rfl, rfl, rfl, rfl, rfl⟩
  | openWindow => rw [State.openWindow_frame]; exact ⟨rfl, rfl, rfl, rfl, rfl⟩
  | hearTaken => rw [State.hearTaken_frame]; exact ⟨rfl, rfl, rfl, rfl, rfl⟩
  | retryTaken => rw [State.retryTaken_frame]; exact ⟨rfl, rfl, rfl, rfl, rfl⟩
  | offer => rw [State.offer_frame]; exact ⟨rfl, rfl, rfl, rfl, rfl⟩
  | takeQuery => rw [State.takeQuery_frame]; exact ⟨rfl, rfl, rfl, rfl, rfl⟩
  | beginSending => rw [State.beginSending_frame]; exact ⟨rfl, rfl, rfl, rfl, rfl⟩
  | lose => rw [State.takeBack_frame]; exact ⟨rfl, rfl, rfl, rfl, rfl⟩
  | abort => rw [State.takeBack_frame]; exact ⟨rfl, rfl, rfl, rfl, rfl⟩
  | _ => exact ⟨rfl, rfl, rfl, rfl, rfl⟩

theorem Moves.leaves {C : Nat → Prop} {s t : State} (hmoves : Moves C s t) :
    t.power = s.power ∧ t.node = s.node ∧ t.resetLine = s.resetLine ∧ t.straps = s.straps ∧ t.out = s.out := by
  refine hmoves.keeps (P := fun u => u.power = s.power ∧ u.node = s.node ∧ u.resetLine = s.resetLine ∧ u.straps = s.straps ∧
    u.out = s.out) (fun u v hmove hu => ?_) ⟨rfl, rfl, rfl, rfl, rfl⟩
  obtain ⟨hpower, hnode, hreset, hstraps, hout⟩ := hmove.leaves
  rwa [hpower, hnode, hreset, hstraps, hout]

/-- A move in OPERATING leaves the configuration. -/
theorem Move.leaves_cfg {C : Nat → Prop} {s t : State} (hmove : Move C s t) (hnode : s.node = .operating) :
    t.cfg = s.cfg := by
  cases hmove with
  | appendDue => rw [State.appendDue_frame]
  | openWindow => rw [State.openWindow_frame]
  | hearTaken => rw [State.hearTaken_frame]
  | retryTaken => rw [State.retryTaken_frame]; rfl
  | offer => exact State.offer_cfg _ _
  | takeQuery => rw [State.takeQuery_frame]; rfl
  | beginSending => rw [State.beginSending_frame]
  | lose => rw [State.takeBack_frame]; rfl
  | abort => rw [State.takeBack_frame]; rfl
  | writeRecord => exact State.writeRecord_cfg _ _
  | commit hcommissioning => rw [hnode] at hcommissioning; cases hcommissioning
  | _ => rfl

theorem Moves.leaves_cfg {C : Nat → Prop} {s t : State} (hmoves : Moves C s t) (hnode : s.node = .operating) :
    t.cfg = s.cfg := by
  induction hmoves with
  | refl => rfl
  | tail hfirst hlast ih => exact (hlast.leaves_cfg ((Moves.leaves hfirst).2.1.trans hnode)).trans ih

end Sys2Proof.Machine
end

section
/-! SUPPORT. Every command is a run of moves, a start, or the loss of everything volatile; so is a step. -/

namespace Sys2Proof.Machine

open Sys2Proof

/-! ### What a command answers -/

/-- The slots whose REPLACE a command brings about (R74, R167). -/
def Replaces (command : Instr) (s : State) (slot : Nat) : Prop :=
  command = .replace slot ∨ (command = .confirm ∧ (s.orders.at s.orders.head).slot = slot)

/-- Everything volatile gone: what is left of a state, and the store after the first `begun` writes of a COMMIT in
progress. -/
def State.restarted (s : State) (power : Bool) (resetLine : LevelLine) (straps : Straps) (pins : Pins)
    (mode : BusMode) (begun : Nat) : State :=
  { State.reset with
    power := power, resetLine := resetLine, straps := straps, pins := pins
    bus := { State.reset.bus with mode := mode }
    account := { State.reset.account with records := s.account.records.writeAll (s.account.writes.take begun) }
    choices := s.choices, pending := s.pending }

/-- The answers of a command: the state as it was, work taken and nothing done, a run of moves, a restart after such a
run, or the end of a start. -/
inductive Effect (C : Nat → Prop) (s : State) : State → Prop
  | none : Effect C s s
  | taken (work : Instr) : Effect C s (s.take work)
  | moved {u : State} (hmoves : Moves C s u) : Effect C s u.settle
  | restarted {u : State} (hmoves : Moves C s u) (power : Bool) (resetLine : LevelLine) (straps : Straps) (pins : Pins)
      (mode : BusMode) (begun : Nat) (hmode : mode ≠ .mute) : Effect C s (u.restarted power resetLine straps pins mode begun).settle
  | started (damage : List StoreDamage) (levels : BitVec 24) (hnode : s.node = .starting) :
      Effect C s
        (s.startWith (s.account.records.damaged damage) (s.account.records.damaged damage).found levels).settle

section Runs

variable {C : Nat → Prop} {s t u : State}

theorem Effect.of_if {b : Prop} [Decidable b] (hanswer : (if b then done u else .next s) = .next t)
    (hmoves : b → Moves C s u) : Effect C s t := by
  split at hanswer
  next hb => cases hanswer; exact .moved (hmoves hb)
  next => cases hanswer; exact .none

theorem Effect.of_if_taken {b : Prop} [Decidable b] {work : Instr}
    (hanswer : (if b then done u else .next (s.take work)) = .next t) (hmoves : b → Moves C s u) : Effect C s t := by
  split at hanswer
  next hb => cases hanswer; exact .moved (hmoves hb)
  next => cases hanswer; exact .taken work

/-! ### Runs of one operation -/

theorem State.operating_iff (s : State) : s.operating = true ↔ s.node = .operating := beq_iff_eq

theorem State.running_iff (s : State) : s.running = true ↔ s.node ≠ .starting := by
  unfold State.running
  cases s.node <;> simp

theorem State.silenced_iff (s : State) : s.silenced = true ↔ s.bus.mode = .silenced := beq_iff_eq

theorem State.plannerHears_iff (s : State) (source : Addr) :
    s.plannerHears source = true ↔ s.node = .operating ∧ s.acceptsSource source = true := by
  rw [State.plannerHears, Bool.and_eq_true, State.operating_iff]

theorem Moves.step (hmove : Move C s t) (hmoves : Moves C t u) : Moves C s u := .head hmove hmoves

theorem Moves.hand (s : State) (work : List Instr) : Moves C s (s.hand work) :=
  .single (.agenda s (s.handed ++ work) s.choices s.pins s.pending s.account.nodeMarked s.account.labelTaken)

theorem Moves.take (s : State) (work : Instr) : Moves C s (s.take work) :=
  .single (.agenda s (s.handed.erase work) s.choices s.pins s.pending s.account.nodeMarked s.account.labelTaken)

theorem Moves.countChoice (s : State) : Moves C s s.countChoice :=
  .single (.agenda s s.handed (s.choices + 1) s.pins s.pending s.account.nodeMarked s.account.labelTaken)

theorem Moves.putPins (s : State) (pins : Pins) : Moves C s { s with pins := pins } :=
  .single (.agenda s s.handed s.choices pins s.pending s.account.nodeMarked s.account.labelTaken)

theorem Moves.putPending (s : State) (pending : List Instr) : Moves C s { s with pending := pending } :=
  .single (.agenda s s.handed s.choices s.pins pending s.account.nodeMarked s.account.labelTaken)

/-- The edges that move neither MOTOR_RUN nor, downwards, MAINT. -/
theorem Moves.edge (s : State) {fn : LineFn} {high : Bool} (hmotor : fn ≠ .motorRun)
    (hmaint : fn = .maint → high = true) : Moves C s (s.edge fn high) := by
  refine Moves.step (.levels s (s.lines.levels.put fn high) ?motor ?maint) (Moves.putPins _ _)
  case motor =>
    cases fn with
    | motorRun => exact absurd rfl hmotor
    | _ => rfl
  case maint =>
    intro hhigh
    cases fn with
    | maint => exact hmaint rfl
    | _ => exact hhigh

theorem Moves.offer (s : State) (n : Notice) (hnode : s.node = .operating) (htaken : n.body.isTaken = false)
    (hreport : n.body.isReport = false) : Moves C s (s.offer n) := .single (.offer s n hnode htaken hreport)

theorem mem_bandAlerts_plain (i : Nat) (olds news : List Component) :
    ∀ n ∈ bandAlerts i olds news, n.body.isTaken = false ∧ n.body.isReport = false := by
  fun_induction bandAlerts i olds news with
  | case1 i old olds new news _ ih => exact ih
  | case2 i old olds new news _ ih => exact List.forall_mem_cons.2 ⟨⟨rfl, rfl⟩, ih⟩
  | case3 => exact fun _ h => absurd h List.not_mem_nil

theorem Moves.offerAll (s : State) (l : List Notice) (hnode : s.node = .operating)
    (hplain : ∀ n ∈ l, n.body.isTaken = false ∧ n.body.isReport = false) : Moves C s (s.offerAll l) := by
  induction l generalizing s with
  | nil => exact .refl
  | cons n l ih =>
    obtain ⟨⟨htaken, hreport⟩, hl⟩ := List.forall_mem_cons.1 hplain
    exact Moves.step (.offer s n hnode htaken hreport) (ih (s.offer n) (by rwa [State.offer_node]) hl)

theorem Moves.creditAll (s : State) (increment : SlotConfig → Component → Nat) (hnode : s.node = .operating)
    (hnone : ∀ slot, ¬C slot) : Moves C s (s.creditAll increment) :=
  Moves.step (.credit s increment hnode hnone) (Moves.offerAll _ _ hnode (mem_bandAlerts_plain 0 _ _))

theorem Moves.replaceSlot (s : State) (slot : Nat) (hnode : s.node = .operating) (hslot : C slot) :
    Moves C s (s.replaceSlot slot) := by
  cases hpresent : (s.cfg.slot slot).present with
  | false => rw [State.replaceSlot_absent hpresent]
  | true =>
    rw [State.replaceSlot_present hpresent]
    exact Moves.step (.replace s slot hnode hslot hpresent) (Moves.offer _ _ hnode rfl rfl)

/-! ### The Piece Tracker -/

/-- An older piece stands before a younger one. -/
theorem pairwise_append_zero {α : Type} {age : α → Nat} {l : List α} {a : α}
    (hl : l.Pairwise fun older newer => age newer ≤ age older) (ha : age a = 0) :
    (l ++ [a]).Pairwise fun older newer => age newer ≤ age older := by
  refine List.pairwise_append.2 ⟨hl, List.pairwise_singleton _ _, fun x _ y hy => ?_⟩
  rw [List.mem_singleton.1 hy, ha]
  exact Nat.zero_le _

theorem satAdd_le (top count amount : Nat) : satAdd top count amount ≤ top := Nat.min_le_left _ _

theorem nextTagSeq_lt (seq : Nat) : nextTagSeq seq < Config.tagSequences := Nat.mod_lt _ (by decide)

theorem Tracker.Lawful.reviewHold {t : Tracker} (hlawful : t.Lawful) (hjammed : t.sectionState = .jammed) (clear : Bool) :
    { t with clearHold := if clear then some (t.clearHold.getD 0) else none }.Lawful := by
  obtain ⟨hin, hpieces, hinAge, hage, htag, hcounts, hjam, -, hms⟩ := hlawful
  refine ⟨hin, hpieces, hinAge, hage, htag, hcounts, hjam, fun _ => hjammed, ?_⟩
  cases clear with
  | false => rfl
  | true =>
    cases hhold : t.clearHold with
    | none => rfl
    | some ms => simpa [State.reset, hhold] using hms

theorem Moves.reviewHold (s : State) (hnode : s.node = .operating) : Moves C s s.reviewHold := by
  by_cases hjammed : s.tracker.sectionState = .jammed
  · rw [State.reviewHold_jammed hjammed]
    exact .single (.track s _ hnode (fun h => h.reviewHold hjammed _) (.inl rfl))
  · rw [State.reviewHold_calm hjammed]

theorem Tracker.Lawful.jammed {t : Tracker} (hlawful : t.Lawful) (clear : Bool) : (t.jammed clear).Lawful := by
  obtain ⟨hin, -, hinAge, -, htag, ⟨hdeparted, hmissing, hphantom, huntagged, -⟩, -, -, -⟩ := hlawful
  exact ⟨hin, Nat.zero_le _, hinAge, .nil, htag, ⟨hdeparted, hmissing, hphantom, huntagged, satAdd_le _ _ _⟩,
    fun _ => ⟨rfl, rfl, rfl, rfl⟩, fun _ => rfl, by cases clear <;> rfl⟩

theorem Moves.jam (s : State) (cause : JamCause) (hnode : s.node = .operating) : Moves C s (s.jam cause) :=
  Moves.step (.track s (s.tracker.jammed s.clearCondition) hnode (fun h => h.jammed _) (.inr (.inl rfl)))
    (.trans (Moves.offer _ _ hnode rfl rfl) (Moves.hand _ _))

theorem Tracker.Lawful.sweep {t : Tracker} (hlawful : t.Lawful) (tHand : Nat) : (t.sweep tHand).Lawful := by
  obtain ⟨hin, hpieces, hinAge, hage, htag, ⟨hdeparted, -, hphantom, huntagged, hjams⟩, hjam, hhold, hms⟩ := hlawful
  exact ⟨(List.length_filter_le _ _).trans hin, hpieces, hinAge.sublist List.filter_sublist, hage, htag,
    ⟨hdeparted, satAdd_le _ _ _, hphantom, huntagged, hjams⟩, hjam, hhold, hms⟩

/-- A blocked time that returns to 0 keeps the laws. -/
theorem Tracker.Lawful.clearBlocked {t : Tracker} (hlawful : t.Lawful) {entry straight divert : Nat}
    (hentry : entry = t.entryBlocked ∨ entry = 0) (hstraight : straight = t.straightBlocked ∨ straight = 0)
    (hdivert : divert = t.divertBlocked ∨ divert = 0) :
    { t with entryBlocked := entry, straightBlocked := straight, divertBlocked := divert }.Lawful := by
  obtain ⟨hin, hpieces, hinAge, hage, htag, hcounts, hjam, hhold, hms⟩ := hlawful
  refine ⟨hin, hpieces, hinAge, hage, htag, hcounts, fun hjammed => ?_, hhold, hms⟩
  obtain ⟨hempty, he, hs, hd⟩ := hjam hjammed
  exact ⟨hempty, hentry.elim (·.trans he) id, hstraight.elim (·.trans hs) id, hdivert.elim (·.trans hd) id⟩

theorem Tracker.Lawful.filterInbound {t : Tracker} (hlawful : t.Lawful) {inbound : List InboundEntry}
    (hsub : inbound.Sublist t.inbound) : { t with inbound := inbound }.Lawful := by
  obtain ⟨hin, hpieces, hinAge, hrest⟩ := hlawful
  exact ⟨hsub.length_le.trans hin, hpieces, hinAge.sublist hsub, hrest⟩

theorem Tracker.Lawful.enter {t : Tracker} (hlawful : t.Lawful) (hcalm : t.sectionState ≠ .jammed)
    (hroom : ¬Config.piecePlaces ≤ t.pieces.length) (cfg : Configuration) (latch : BitVec 6) (own : Tag) :
    (t.enter cfg latch own).Lawful := by
  obtain ⟨hin, -, hinAge, hage, htag, ⟨hdeparted, hmissing, hphantom, huntagged, hjams⟩, -, hhold, hms⟩ := hlawful
  have hlength {p : PieceRecord} : (t.pieces ++ [p]).length ≤ Config.piecePlaces := by
    rw [List.length_append, List.length_singleton]
    omega
  unfold Tracker.enter
  split
  next e rest hinbound =>
    simp only [hinbound] at hin hinAge
    exact ⟨Nat.le_of_succ_le hin, hlength, (List.pairwise_cons.1 hinAge).2, pairwise_append_zero hage rfl, htag,
      ⟨hdeparted, hmissing, hphantom, huntagged, hjams⟩, fun h => absurd h hcalm, hhold, hms⟩
  next hinbound =>
    exact ⟨hin, hlength, hinAge, pairwise_append_zero hage rfl, nextTagSeq_lt _,
      ⟨hdeparted, hmissing, hphantom, satAdd_le _ _ _, hjams⟩, fun h => absurd h hcalm, hhold, hms⟩

theorem Tracker.enter_sectionState (t : Tracker) (cfg : Configuration) (latch : BitVec 6) (own : Tag) :
    (t.enter cfg latch own).sectionState = t.sectionState := by
  unfold Tracker.enter
  split <;> rfl

theorem Moves.arrive (s : State) (latch : BitVec 6) (hnode : s.node = .operating)
    (hcalm : s.tracker.sectionState ≠ .jammed) : Moves C s (s.arrive latch) := by
  have hswept (h : s.tracker.Lawful) : ({ s.tracker with entryBlocked := 0 }.sweep s.cfg.tHand).Lawful :=
    (h.clearBlocked (.inr rfl) (.inl rfl) (.inl rfl)).sweep s.cfg.tHand
  unfold State.arrive
  dsimp only
  split
  next =>
    exact Moves.step (.track s _ hnode (fun h => (hswept h).filterInbound (List.drop_sublist _ _)) (.inl rfl))
      (Moves.jam _ _ hnode)
  next hroom =>
    refine .single (.track s _ hnode (fun h => (hswept h).enter hcalm hroom _ _ _) (.inl ?_))
    rw [Tracker.enter_sectionState]
    rfl

theorem Tracker.startBlocked_eq (t : Tracker) (exit : ExitPath) :
    t.startBlocked exit =
      { t with
        straightBlocked := if exit = .straight then 0 else t.straightBlocked
        divertBlocked := if exit = .divert then 0 else t.divertBlocked } := by
  cases exit <;> rfl

theorem Tracker.endBlocked_eq (t : Tracker) (eye : Eye) :
    t.endBlocked eye =
      { t with
        entryBlocked := if eye = .entry then 0 else t.entryBlocked
        straightBlocked := if eye = .straight then 0 else t.straightBlocked
        divertBlocked := if eye = .divert then 0 else t.divertBlocked } := by
  cases eye <;> rfl

theorem ite_eq_or_zero (b : Prop) [Decidable b] (n : Nat) : (if b then 0 else n) = n ∨ (if b then 0 else n) = 0 := by
  split
  · exact .inr rfl
  · exact .inl rfl

theorem Moves.announce (s : State) (tag : Tag) (thickness mass : PieceClass) (exit : ExitPath) (phantom : Bool)
    (hnode : s.node = .operating) : Moves C s (s.announce tag thickness mass exit phantom) := by
  unfold State.announce
  split
  · exact Moves.offer _ _ hnode rfl rfl
  · exact .refl

theorem Tracker.Lawful.departed {t : Tracker} (hlawful : t.Lawful) {p : PieceRecord} {rest : List PieceRecord}
    (hpieces : t.pieces = p :: rest) :
    { t with pieces := rest, departed := satAdd Config.countTop t.departed 1 }.Lawful := by
  obtain ⟨hin, hlength, hinAge, hage, htag, ⟨-, hcounts⟩, hjam, hhold, hms⟩ := hlawful
  simp only [hpieces] at hlength hage
  refine ⟨hin, Nat.le_of_succ_le hlength, hinAge, (List.pairwise_cons.1 hage).2, htag, ⟨satAdd_le _ _ _, hcounts⟩,
    fun hjammed => ?_, hhold, hms⟩
  obtain ⟨hempty, -⟩ := hjam hjammed
  exact absurd (hpieces.symm.trans hempty) (List.cons_ne_nil _ _)

theorem Tracker.Lawful.phantom {t : Tracker} (hlawful : t.Lawful) (moves : Bool) :
    { t with
      phantom := satAdd Config.countTop t.phantom 1
      tagSeq := if moves then nextTagSeq t.tagSeq else t.tagSeq }.Lawful := by
  obtain ⟨hin, hlength, hinAge, hage, htag, ⟨hdeparted, hmissing, -, hcounts⟩, hrest⟩ := hlawful
  refine ⟨hin, hlength, hinAge, hage, ?_, ⟨hdeparted, hmissing, satAdd_le _ _ _, hcounts⟩, hrest⟩
  cases moves
  · exact htag
  · exact nextTagSeq_lt _

theorem Moves.depart (s : State) (exit : ExitPath) (hnode : s.node = .operating) : Moves C s (s.depart exit) := by
  have hstart : Move C s (s.setTracker (s.tracker.startBlocked exit)) := by
    rw [Tracker.startBlocked_eq]
    exact .track s _ hnode (fun h => h.clearBlocked (.inl rfl) (ite_eq_or_zero _ _) (ite_eq_or_zero _ _)) (.inl rfl)
  unfold State.depart
  dsimp only
  split
  next p rest hpieces =>
    refine Moves.step hstart ?_
    unfold State.departReal
    dsimp only
    have hrest : (s.setTracker (s.tracker.startBlocked exit)).tracker.pieces = p :: rest := by
      cases exit <;> exact hpieces
    have hgone : Move C (s.setTracker (s.tracker.startBlocked exit)) _ :=
      .track _ _ hnode (fun h => h.departed hrest) (.inl rfl)
    have hcredit := Moves.step hgone (.trans (Moves.announce _ p.tag p.thickness p.mass exit false hnode)
      (Moves.hand _ [.pieceCredit p.thickness p.mass exit false]))
    have hnode' := hcredit.leaves.2.1.trans hnode
    split
    · exact .trans hcredit (Moves.jam _ _ hnode')
    · exact hcredit
  next hpieces =>
    refine Moves.step hstart ?_
    unfold State.departPhantom
    exact Moves.step (.track _ _ hnode (fun h => h.phantom _) (.inl rfl))
      (.trans (Moves.announce _ _ _ _ _ _ hnode) (Moves.hand _ _))

theorem Tracker.Lawful.append {t : Tracker} (hlawful : t.Lawful) {e : InboundEntry} (hage : e.age = 0) :
    (t.append e).Lawful := by
  obtain ⟨hin, hlength, hinAge, hpiece, htag, ⟨hdeparted, hmissing, hcounts⟩, hrest⟩ := hlawful
  have hin' : t.inbound.length ≤ Config.inboundPlaces := hin
  unfold Tracker.append
  split
  next hfull =>
    refine ⟨?_, hlength, pairwise_append_zero (hinAge.sublist (List.drop_sublist _ _)) hage, hpiece, htag,
      ⟨hdeparted, satAdd_le _ _ _, hcounts⟩, hrest⟩
    change (t.inbound.drop 1 ++ [e]).length ≤ Config.inboundPlaces
    rw [List.length_append, List.length_drop, hin'.antisymm hfull]
    exact Nat.le_refl 16
  next hroom =>
    refine ⟨?_, hlength, pairwise_append_zero hinAge hage, hpiece, htag, ⟨hdeparted, hmissing, hcounts⟩, hrest⟩
    change (t.inbound ++ [e]).length ≤ Config.inboundPlaces
    rw [List.length_append]
    exact Nat.lt_of_not_le hroom

theorem State.takesPassage_operating {source : Addr} {exit : ExitPath} (htakes : s.takesPassage source exit = true) :
    s.node = .operating := by
  simp only [State.takesPassage, Bool.and_eq_true, State.operating_iff] at htakes
  exact htakes.1.1

theorem State.takesJam_operating {source : Addr} (htakes : s.takesJam source = true) : s.node = .operating := by
  simp only [State.takesJam, Bool.and_eq_true, State.operating_iff] at htakes
  exact htakes.1.1

theorem Moves.hearPassage (s : State) (source : Addr) (tag : Tag) (thickness mass : PieceClass)
    (hnode : s.node = .operating) : Moves C s (s.hearPassage source tag thickness mass) := by
  refine .single (.track s _ hnode (fun h => h.append rfl) (.inl ?_))
  unfold Tracker.append
  split <;> rfl

theorem Moves.hearJam (s : State) (source : Addr) (hnode : s.node = .operating) : Moves C s (s.hearJam source) :=
  .single (.track s _ hnode (fun h => h.filterInbound List.filter_sublist) (.inl rfl))

/-- The section follows MOTOR_RUN, and in JAMMED the clear hold is looked at (R17, R36). -/
theorem Moves.turnMotor (s : State) (high : Bool) (hnode : s.node = .operating) :
    Moves C s
      (let s1 := (s.edge .motorRun high).reviewHold
      if s1.tracker.sectionState = (if high then .stopped else .running) then
        { s1 with tracker := { s1.tracker with sectionState := if high then .running else .stopped } }
      else s1) := by
  have hturn : Moves C s { s.turnMotor high with pins := (s.edge .motorRun high).pins } :=
    Moves.step (.turnMotor s high hnode) (Moves.putPins _ _)
  by_cases hjammed : s.tracker.sectionState = .jammed
  · have hjammed' : (s.edge .motorRun high).tracker.sectionState = .jammed := hjammed
    have hreview := hturn.trans (Moves.reviewHold _ hnode)
    have hsame : { s.turnMotor high with pins := (s.edge .motorRun high).pins } = s.edge .motorRun high := by
      simp only [State.turnMotor, hjammed, if_true]
      rw [← hjammed]
      rfl
    rw [hsame] at hreview
    dsimp only
    rw [if_neg]
    · exact hreview
    · rw [State.reviewHold_jammed hjammed']
      cases high <;> simp [hjammed]
  · have hcalm : (s.edge .motorRun high).tracker.sectionState ≠ .jammed := hjammed
    dsimp only
    rw [State.reviewHold_calm hcalm]
    by_cases hturns : (s.edge .motorRun high).tracker.sectionState = (if high then .stopped else .running)
    · rw [if_pos hturns]
      simp only [State.turnMotor, hjammed, if_false] at hturn
      exact hturn
    · rw [if_neg hturns]
      have hsection : (if high then .running else .stopped) = s.tracker.sectionState := by
        rw [State.edge_tracker] at hturns
        cases high <;> cases h : s.tracker.sectionState <;> simp_all
      simp only [State.turnMotor, hjammed, if_false, hsection] at hturn
      exact hturn

end Runs

end Sys2Proof.Machine
end

section
/-! SUPPORT. The runs of moves of the planner, the bus side, the store and the clock; and what every command and every
step answers. -/

namespace Sys2Proof.Machine

open Sys2Proof

section Runs

variable {C : Nat → Prop} {s t u : State}

theorem Moves.of_ite {b : Prop} [Decidable b] (hmoves : b → Moves C s u) : Moves C s (if b then u else s) := by
  split
  next hb => exact hmoves hb
  next => exact .refl

/-! ### Sensing and the store -/

theorem Moves.pulse (s : State) (line : Nat) (hnode : s.node = .operating) :
    Moves C s
      { s with
        lines :=
          { s.lines with
            counts := s.lines.counts.set line (satAdd Config.countTop (s.lines.counts.getD line 0) 1) } } := by
  refine .single (.counts s _ hnode fun ⟨hlength, htop⟩ => ⟨List.length_set.trans hlength, fun n hn => ?_⟩)
  rcases mem_set_cases hn with hn | rfl
  · exact htop n hn
  · exact satAdd_le _ _ _

theorem Moves.restartCounts (s : State) (hnode : s.node = .operating) : Moves C s s.restartCounts :=
  .single (.counts s _ hnode fun _ =>
    ⟨List.length_replicate, fun _ hn => (List.eq_of_mem_replicate hn).le.trans (Nat.zero_le _)⟩)

theorem Moves.usePeriod (s : State) (counts : List Nat) (hnode : s.node = .operating) :
    Moves C s (s.usePeriod counts) := by
  unfold State.usePeriod
  split
  · exact Moves.step (.measure s counts _ hnode) (Moves.hand _ _)
  · exact .refl

theorem Moves.sweepInbound (s : State) (hnode : s.node = .operating) : Moves C s s.sweepInbound :=
  .single (.track s _ hnode (fun h => h.sweep _) (.inl rfl))

theorem Moves.countHour (s : State) (hnode : s.node = .operating) : Moves C s s.countHour :=
  Moves.step (.endHour s hnode)
    (.single (.agenda _ s.handed s.choices s.pins s.pending true s.account.labelTaken))

theorem Moves.hour (s : State) (hnode : s.node = .operating) : Moves C s (s.rework (Component.hour s.cfg)) :=
  Moves.step (.hour s hnode) (Moves.offerAll _ _ hnode (mem_bandAlerts_plain 0 _ _))

theorem Moves.writeRecords (s : State) (names : List RecordName) (hnode : s.node = .operating) :
    Moves C s (s.writeRecords names) := by
  induction names generalizing s with
  | nil => exact .refl
  | cons name names ih =>
    exact Moves.step (.writeRecord s name hnode) (ih (s.writeRecord name) (by rwa [State.writeRecord_node]))

theorem Moves.samplePeriodEnd (s : State) (hnode : s.node = .operating) :
    Moves C s ((((s.restartCounts.usePeriod s.lines.counts).sweepInbound).retryTaken).hand [.checkpoint]) := by
  have hcounts : Moves C s (s.restartCounts.usePeriod s.lines.counts) :=
    (Moves.restartCounts s hnode).trans (Moves.usePeriod _ _ hnode)
  have hnode' := hcounts.leaves.2.1.trans hnode
  exact hcounts.trans ((Moves.sweepInbound _ hnode').trans
    (Moves.step (.retryTaken _ hnode') (Moves.hand _ _)))

/-! ### The Service Planner -/

theorem Moves.claimDecision (s : State) (heldBefore : Bool) (hnode : s.node = .operating) :
    Moves C s (s.claimDecision heldBefore) := by
  unfold State.claimDecision
  split
  · exact Moves.offer _ _ hnode rfl rfl
  split
  · exact Moves.offer _ _ hnode rfl rfl
  · exact .refl

theorem Moves.maintRise (s : State) (hnode : s.node = .operating) :
    Moves C s
      (if s.planner.window = .closed ∨ s.planner.window = .pending then (s.edge .maint true).openWindow
      else s.edge .maint true) := by
  have hedge : Moves C s (s.edge .maint true) := Moves.edge s (by simp) fun _ => rfl
  split
  next hwindow => exact hedge.tail (.openWindow _ hnode hwindow rfl)
  next => exact hedge

theorem Moves.maintFall (s : State) (hnode : s.node = .operating) :
    Moves C s
      (let s1 := (s.edge .maint false).removeTaken
      s1.setPlanner
        { s1.planner with
          takenSet := [], pendingHold := none, window := .closed, takenValues := none, takenOwed := false }) :=
  Moves.step (.closeWindow s hnode) (Moves.putPins _ (s.edge .maint false).pins)

theorem Moves.confirmHead (s : State) (replaceFirst : Bool) (hnode : s.node = .operating)
    (hopen : 0 < s.orders.openCount) (hslot : C (s.orders.at s.orders.head).slot) :
    Moves C s (s.confirmHead replaceFirst) := by
  have hclosed : Moves C s (s.closeHead .done) := .single (.closeHead s .done hnode hopen (by simp))
  unfold State.confirmHead
  cases replaceFirst with
  | false => exact hclosed.trans ((Moves.hand _ _).trans (Moves.offer _ _ hnode rfl rfl))
  | true =>
    have hreplaced : Moves C s _ := hclosed.trans (Moves.replaceSlot (s.closeHead .done) _ hnode hslot)
    exact hreplaced.trans (Moves.offer _ _ (hreplaced.leaves.2.1.trans hnode) rfl rfl)

theorem State.listWorking_open (hworking : s.listWorking = true) : 0 < s.orders.openCount := by
  simp only [State.listWorking, Bool.and_eq_true, decide_eq_true_eq] at hworking
  exact hworking.2

/-! ### The bus side -/

theorem Moves.frameComplete (s : State) (n : Notice) (hsends : s.inFlight = some n) :
    Moves C s
      (((s.setBus { s.bus with activity := .waiting, faultCount := s.bus.faultCount - 1 }).dropCompleted).tellCompleted
        n s.queue.removalMark) := by
  have hplain : Moves C s { s.completeFrame with query := if n.body.isReport = true then none else s.query } :=
    .single (.complete s n hsends)
  have hframe (hreport : n.body.isReport = false) : Moves C s s.completeFrame := by
    simp only [hreport, Bool.false_eq_true, if_false] at hplain
    exact hplain
  unfold State.tellCompleted
  split
  next values hbody =>
    have htaken : n.body.isTaken = true := by rw [hbody]; rfl
    have hcompleted := hframe (by rw [hbody]; rfl)
    split
    next => exact hcompleted
    next hunmarked =>
      unfold State.takenCompleted
      split
      next hwindow =>
        exact Moves.step (.completeTaken s n hsends htaken (by simpa using hunmarked) hwindow)
          (.single (.appendDue _))
      next => exact hcompleted
  next querier bytes hbody =>
    simp only [show n.body.isReport = true by rw [hbody]; rfl, if_true] at hplain
    exact hplain
  next hnotTaken hnotReport =>
    refine hframe ?_
    cases hbody : n.body with
    | report querier bytes => exact absurd hbody (hnotReport querier bytes)
    | _ => rfl

theorem Moves.answerQuery (s : State) (kind : QueryKind) (querier : Addr) (arg : BitVec 5) (hrunning : s.running = true)
    (hheard : s.silenced = false) : Moves C s (answerQuery kind querier arg s).state := by
  unfold Sys2Proof.Machine.answerQuery
  split
  next => exact .refl
  next htakes =>
    simp only [State.refusesQuery, Bool.or_eq_true, not_or, Option.not_isSome_iff_eq_none] at htakes
    exact .single (.takeQuery s kind querier arg hrunning hheard htakes.1)

theorem Moves.witnessed {a : Answer} (hrunning : s.running = true) (hmoves : Moves C s a.state) :
    Moves C s a.witnessed := by
  refine hmoves.tail (.setWitness _ _ ?_)
  rw [State.running_iff] at hrunning ⊢
  rwa [hmoves.leaves.2.1]

theorem Moves.stageItem (s : State) {item : Configuration → Option Configuration}
    (hkept : ∀ c c', item c = some c' → c.InRange → c'.InRange) : Moves C s (stageItem item s).state := by
  unfold Sys2Proof.Machine.stageItem
  split
  next htakes =>
    simp only [State.takesConfig, Bool.and_eq_true, beq_iff_eq] at htakes
    split
    next staging hitem => exact .single (.stage s staging htakes.1 (hkept _ _ hitem))
    next => exact .refl
  next => exact .refl

/-! ### The items of CONFIG keep their ranges (R178) -/

theorem clampTo_mem {low high : Nat} (hle : low ≤ high) (value : Nat) :
    low ≤ clampTo low high value ∧ clampTo low high value ≤ high := by
  unfold clampTo
  omega

theorem clampHold_mem (value : Nat) :
    clampHold value = 0 ∨ (1000 ≤ clampHold value ∧ clampHold value ≤ 1999) := by
  unfold clampHold
  split
  · exact .inl rfl
  · exact .inr (clampTo_mem (by decide) value)

theorem unpackFactors_le (packed : BitVec 80) : (unpackFactors packed).length = 8 ∧ ∀ f ∈ unpackFactors packed, f ≤ 1023 := by
  refine ⟨rfl, fun f hf => ?_⟩
  obtain ⟨i, -, rfl⟩ := List.mem_map.1 hf
  exact Nat.le_of_lt_succ (Nat.mod_lt _ (by decide))

theorem usableAddr_clamped (value : Nat) : usableAddr (BitVec.ofNat 6 (clampTo 1 62 value)) = true := by
  obtain ⟨hlow, hhigh⟩ := clampTo_mem (low := 1) (high := 62) (by decide) value
  generalize clampTo 1 62 value = a at *
  interval_cases a <;> decide

theorem mem_set_of_forall {α : Type} {p : α → Prop} {l : List α} {i : Nat} {a : α} (hl : ∀ x ∈ l, p x) (ha : p a) :
    ∀ x ∈ l.set i a, p x := fun _ hx => (mem_set_cases hx).elim (hl _) fun h => h ▸ ha

theorem SlotConfig.blank_inRange : SlotConfig.blank.InRange := by decide

theorem Configuration.slot_inRange {c : Configuration} (hslots : ∀ sl ∈ c.slots, sl.InRange) (i : Nat) :
    (c.slot i).InRange := by
  rw [Configuration.slot, List.getD_eq_getElem?_getD]
  cases hsl : c.slots[i]? with
  | none => exact SlotConfig.blank_inRange
  | some sl => exact hslots sl (List.mem_of_getElem? hsl)

theorem tachOf_lt {code : Nat} {line : Option Nat} (htach : tachOf code = some line) :
    line.all (fun l => decide (l < Config.lines)) = true := by
  unfold tachOf at htach
  split at htach
  next hlt => cases htach; simpa using hlt
  next =>
    split at htach
    · cases htach; rfl
    · cases htach

section Items

variable {c c' : Configuration}

/-- Replacing one slot by one within its ranges keeps the ranges. -/
theorem Configuration.InRange.putSlot (hrange : c.InRange) {sl : SlotConfig} (i : Nat) (hsl : sl.InRange) :
    { c with slots := c.slots.set i sl }.InRange := by
  obtain ⟨hk, hhz, hwatch, hhold, hg, hj, htransit, hblock, hhand, htf, hmf, hup, hfn, hlength, hslots⟩ := hrange
  exact ⟨hk, hhz, hwatch, hhold, hg, hj, htransit, hblock, hhand, htf, hmf, hup, hfn, List.length_set.trans hlength,
    mem_set_of_forall hslots hsl⟩

theorem Configuration.InRange.slots (hrange : c.InRange) : ∀ sl ∈ c.slots, sl.InRange := by
  obtain ⟨-, -, -, -, -, -, -, -, -, -, -, -, -, -, hslots⟩ := hrange
  exact hslots

theorem itemLineA_inRange {k : Byte} {hz tWatch tHold : BitVec 16} (hitem : itemLineA k hz tWatch tHold c = some c')
    (hrange : c.InRange) : c'.InRange := by
  obtain ⟨-, -, -, -, hrest⟩ := hrange
  cases hitem
  exact ⟨clampTo_mem (by decide) _, clampTo_mem (by decide) _, clampTo_mem (by decide) _, clampHold_mem _, hrest⟩

theorem itemLineB_inRange {g thickness mass classSource announceDivert j : Byte}
    (hitem : itemLineB g thickness mass classSource announceDivert j c = some c') (hrange : c.InRange) :
    c'.InRange := by
  obtain ⟨hk, hhz, hwatch, hhold, -, -, hrest⟩ := hrange
  unfold itemLineB at hitem
  split at hitem
  · cases hitem
    exact ⟨hk, hhz, hwatch, hhold, Nat.le_of_lt_succ g.isLt, Nat.le_of_lt_succ j.isLt, hrest⟩
  · cases hitem

theorem itemLineC_inRange {tTransit tBlock tHand : BitVec 16} (hitem : itemLineC tTransit tBlock tHand c = some c')
    (hrange : c.InRange) : c'.InRange := by
  obtain ⟨hk, hhz, hwatch, hhold, hg, hj, -, -, -, hrest⟩ := hrange
  cases hitem
  exact ⟨hk, hhz, hwatch, hhold, hg, hj, clampTo_mem (by decide) _, clampTo_mem (by decide) _,
    clampTo_mem (by decide) _, hrest⟩

theorem itemFactors_inRange {table : Byte} {packed : BitVec 80} (hitem : itemFactors table packed c = some c')
    (hrange : c.InRange) : c'.InRange := by
  obtain ⟨hk, hhz, hwatch, hhold, hg, hj, htransit, hblock, hhand, htf, hmf, hrest⟩ := hrange
  unfold itemFactors at hitem
  split at hitem
  · cases hitem
    exact ⟨hk, hhz, hwatch, hhold, hg, hj, htransit, hblock, hhand, unpackFactors_le packed, hmf, hrest⟩
  · cases hitem
    exact ⟨hk, hhz, hwatch, hhold, hg, hj, htransit, hblock, hhand, htf, unpackFactors_le packed, hrest⟩
  · cases hitem

theorem itemUpstream_inRange {entry inUse address exit : Byte}
    (hitem : itemUpstream entry inUse address exit c = some c') (hrange : c.InRange) : c'.InRange := by
  obtain ⟨hk, hhz, hwatch, hhold, hg, hj, htransit, hblock, hhand, htf, hmf, ⟨hup, husable⟩, hrest⟩ := hrange
  unfold itemUpstream at hitem
  split at hitem
  · cases hitem
    exact ⟨hk, hhz, hwatch, hhold, hg, hj, htransit, hblock, hhand, htf, hmf,
      ⟨List.length_set.trans hup, mem_set_of_forall husable (usableAddr_clamped _)⟩, hrest⟩
  · cases hitem

theorem itemInput_inRange {line function : Byte} (hitem : itemInput line function c = some c') (hrange : c.InRange) :
    c'.InRange := by
  obtain ⟨hk, hhz, hwatch, hhold, hg, hj, htransit, hblock, hhand, htf, hmf, hup, hfn, hrest⟩ := hrange
  unfold itemInput at hitem
  split at hitem
  · split at hitem
    · cases hitem
      exact ⟨hk, hhz, hwatch, hhold, hg, hj, htransit, hblock, hhand, htf, hmf, hup, List.length_set.trans hfn, hrest⟩
    · cases hitem
  · cases hitem

theorem itemSlot_inRange {slot kind path : Byte} {life : BitVec 32} {weight tach : Byte}
    (hitem : itemSlot slot kind path life weight tach c = some c') (hrange : c.InRange) : c'.InRange := by
  obtain ⟨-, -, -, hratio, hratioTop, hdistance, hstart, -, -⟩ := Configuration.slot_inRange hrange.slots slot.toNat
  obtain ⟨hlife, hlifeTop⟩ := clampTo_mem (low := 1) (high := 67108863) (by decide) life.toNat
  unfold itemSlot at hitem
  split at hitem
  next kd pt line _ _ htach =>
    split at hitem
    · cases hitem
      refine hrange.putSlot _ ⟨hlife, hlifeTop, Nat.le_of_lt_succ weight.isLt, hratio, hratioTop, hdistance, hstart,
        ?_, fun hbelt => if_pos hbelt⟩
      split
      · rfl
      · exact tachOf_lt htach
    · cases hitem
  · cases hitem

theorem itemSlotB_inRange {slot : Byte} {ratio distance start : BitVec 16}
    (hitem : itemSlotB slot ratio distance start c = some c') (hrange : c.InRange) : c'.InRange := by
  obtain ⟨hlife, hlifeTop, hweight, -, -, -, -, htach, hbelt⟩ := Configuration.slot_inRange hrange.slots slot.toNat
  unfold itemSlotB at hitem
  split at hitem
  · cases hitem
    exact hrange.putSlot _ ⟨hlife, hlifeTop, hweight, Nat.le_max_left _ _,
      Nat.max_le.2 ⟨by decide, Nat.le_of_lt_succ ratio.isLt⟩, Nat.le_of_lt_succ distance.isLt,
      Nat.le_of_lt_succ start.isLt, htach, hbelt⟩
  · cases hitem

theorem itemClear_inRange {slot : Byte} (hitem : itemClear slot c = some c') (hrange : c.InRange) : c'.InRange := by
  unfold itemClear at hitem
  split at hitem
  · cases hitem
    exact hrange.putSlot _ (Configuration.slot_inRange hrange.slots slot.toNat)
  · cases hitem

end Items

/-! ### Commissioning -/

theorem Moves.answerLabel (s : State) (value : Tag) : Moves C s (answerLabel value s).state := by
  have hstage : Moves C s (Machine.stageItem (fun c => some { c with label := value, labelCommitted := true }) s).state :=
    Moves.stageItem s fun c c' hitem hrange => by cases hitem; exact hrange
  unfold Sys2Proof.Machine.answerLabel
  split
  · exact .refl
  dsimp only
  split
  · exact hstage.tail (.agenda _ _ _ _ _ _ true)
  · exact hstage

theorem commitResult_le (c : Configuration) : commitResult c ≤ 13 := by
  have hite {p : Prop} [Decidable p] {a b : Nat} (ha : a ≤ 13) (hb : b ≤ 13) : (if p then a else b) ≤ 13 := by
    split <;> assumption
  unfold commitResult
  iterate 12 refine hite (by decide) ?_
  decide

theorem Moves.answerCommit (s : State) : Moves C s (answerCommit s).state := by
  unfold Sys2Proof.Machine.answerCommit
  split
  next htakes =>
    simp only [State.takesConfig, Bool.and_eq_true, beq_iff_eq] at htakes
    split
    next hpasses => exact .single (.commit s htakes.1 hpasses)
    next => exact .single (.recordCommit s _ htakes.1 (commitResult_le _))
  next => exact .refl

/-- The layouts of the CONFIG items (section 7.4): a code, the bytes after it, and the answer of the Account Store. -/
inductive ConfigItem : Nat → List Byte → (State → Answer) → Prop
  | lineA (k h1 h0 w1 w0 t1 t0 : Byte) :
      ConfigItem 1 [k, h1, h0, w1, w0, t1, t0]
        (Machine.stageItem (itemLineA k (word16 h1 h0) (word16 w1 w0) (word16 t1 t0)))
  | lineB (g t m c a j : Byte) : ConfigItem 2 [g, t, m, c, a, j] (Machine.stageItem (itemLineB g t m c a j))
  | lineC (a1 a0 b1 b0 c1 c0 : Byte) :
      ConfigItem 3 [a1, a0, b1, b0, c1, c0]
        (Machine.stageItem (itemLineC (word16 a1 a0) (word16 b1 b0) (word16 c1 c0)))
  | factors (t b9 b8 b7 b6 b5 b4 b3 b2 b1 b0 : Byte) :
      ConfigItem 4 [t, b9, b8, b7, b6, b5, b4, b3, b2, b1, b0]
        (Machine.stageItem (itemFactors t (word80 [b9, b8, b7, b6, b5, b4, b3, b2, b1, b0])))
  | upstream (e u a x : Byte) : ConfigItem 5 [e, u, a, x] (Machine.stageItem (itemUpstream e u a x))
  | input (line fn : Byte) : ConfigItem 6 [line, fn] (Machine.stageItem (itemInput line fn))
  | slot (slot kd pt l3 l2 l1 l0 kc line : Byte) :
      ConfigItem 7 [slot, kd, pt, l3, l2, l1, l0, kc, line]
        (Machine.stageItem (itemSlot slot kd pt (word32 l3 l2 l1 l0) kc line))
  | slotB (slot r1 r0 d1 d0 s1 s0 : Byte) :
      ConfigItem 8 [slot, r1, r0, d1, d0, s1, s0]
        (Machine.stageItem (itemSlotB slot (word16 r1 r0) (word16 d1 d0) (word16 s1 s0)))
  | clear (slot : Byte) : ConfigItem 9 [slot] (Machine.stageItem (itemClear slot))
  | label (v1 v0 : Byte) : ConfigItem 10 [v1, v0] (Machine.answerLabel (word16 v1 v0))
  | commit : ConfigItem 11 [] Machine.answerCommit

/-- A CONFIG frame of a layout gets the answer of its item, and every other one is refused. -/
theorem answerConfigFrame_cons (code : Byte) (bytes : List Byte) (s : State) :
    (∃ answer, ConfigItem code.toNat bytes answer ∧ answerConfigFrame (code :: bytes) s = answer s) ∨
      answerConfigFrame (code :: bytes) s = refuse s := by
  delta answerConfigFrame
  dsimp only
  generalize code.toNat = item
  rcases item with _ | _ | _ | _ | _ | _ | _ | _ | _ | _ | _ | _ | item
  case zero => exact .inr rfl
  case succ.zero =>
    rcases bytes with _ | ⟨b0, _ | ⟨b1, _ | ⟨b2, _ | ⟨b3, _ | ⟨b4, _ | ⟨b5, _ | ⟨b6, _ | ⟨_, _⟩⟩⟩⟩⟩⟩⟩⟩
    case cons.cons.cons.cons.cons.cons.cons.nil => exact .inl ⟨_, .lineA _ _ _ _ _ _ _, rfl⟩
    all_goals exact .inr rfl
  case succ.succ.zero =>
    rcases bytes with _ | ⟨b0, _ | ⟨b1, _ | ⟨b2, _ | ⟨b3, _ | ⟨b4, _ | ⟨b5, _ | ⟨_, _⟩⟩⟩⟩⟩⟩⟩
    case cons.cons.cons.cons.cons.cons.nil => exact .inl ⟨_, .lineB _ _ _ _ _ _, rfl⟩
    all_goals exact .inr rfl
  case succ.succ.succ.zero =>
    rcases bytes with _ | ⟨b0, _ | ⟨b1, _ | ⟨b2, _ | ⟨b3, _ | ⟨b4, _ | ⟨b5, _ | ⟨_, _⟩⟩⟩⟩⟩⟩⟩
    case cons.cons.cons.cons.cons.cons.nil => exact .inl ⟨_, .lineC _ _ _ _ _ _, rfl⟩
    all_goals exact .inr rfl
  case succ.succ.succ.succ.zero =>
    rcases bytes with _ | ⟨b0, _ | ⟨b1, _ | ⟨b2, _ | ⟨b3, _ | ⟨b4, _ | ⟨b5, _ | ⟨b6, _ | ⟨b7, _ | ⟨b8, _ | ⟨b9, _ | ⟨b10, _ | ⟨_, _⟩⟩⟩⟩⟩⟩⟩⟩⟩⟩⟩⟩
    case cons.cons.cons.cons.cons.cons.cons.cons.cons.cons.cons.nil => exact .inl ⟨_, .factors _ _ _ _ _ _ _ _ _ _ _, rfl⟩
    all_goals exact .inr rfl
  case succ.succ.succ.succ.succ.zero =>
    rcases bytes with _ | ⟨b0, _ | ⟨b1, _ | ⟨b2, _ | ⟨b3, _ | ⟨_, _⟩⟩⟩⟩⟩
    case cons.cons.cons.cons.nil => exact .inl ⟨_, .upstream _ _ _ _, rfl⟩
    all_goals exact .inr rfl
  case succ.succ.succ.succ.succ.succ.zero =>
    rcases bytes with _ | ⟨b0, _ | ⟨b1, _ | ⟨_, _⟩⟩⟩
    case cons.cons.nil => exact .inl ⟨_, .input _ _, rfl⟩
    all_goals exact .inr rfl
  case succ.succ.succ.succ.succ.succ.succ.zero =>
    rcases bytes with _ | ⟨b0, _ | ⟨b1, _ | ⟨b2, _ | ⟨b3, _ | ⟨b4, _ | ⟨b5, _ | ⟨b6, _ | ⟨b7, _ | ⟨b8, _ | ⟨_, _⟩⟩⟩⟩⟩⟩⟩⟩⟩⟩
    case cons.cons.cons.cons.cons.cons.cons.cons.cons.nil => exact .inl ⟨_, .slot _ _ _ _ _ _ _ _ _, rfl⟩
    all_goals exact .inr rfl
  case succ.succ.succ.succ.succ.succ.succ.succ.zero =>
    rcases bytes with _ | ⟨b0, _ | ⟨b1, _ | ⟨b2, _ | ⟨b3, _ | ⟨b4, _ | ⟨b5, _ | ⟨b6, _ | ⟨_, _⟩⟩⟩⟩⟩⟩⟩⟩
    case cons.cons.cons.cons.cons.cons.cons.nil => exact .inl ⟨_, .slotB _ _ _ _ _ _ _, rfl⟩
    all_goals exact .inr rfl
  case succ.succ.succ.succ.succ.succ.succ.succ.succ.zero =>
    rcases bytes with _ | ⟨b0, _ | ⟨_, _⟩⟩
    case cons.nil => exact .inl ⟨_, .clear _, rfl⟩
    all_goals exact .inr rfl
  case succ.succ.succ.succ.succ.succ.succ.succ.succ.succ.zero =>
    rcases bytes with _ | ⟨b0, _ | ⟨b1, _ | ⟨_, _⟩⟩⟩
    case cons.cons.nil => exact .inl ⟨_, .label _ _, rfl⟩
    all_goals exact .inr rfl
  case succ.succ.succ.succ.succ.succ.succ.succ.succ.succ.succ.zero =>
    rcases bytes with _ | ⟨_, _⟩
    case nil => exact .inl ⟨_, .commit, rfl⟩
    all_goals exact .inr rfl
  case succ.succ.succ.succ.succ.succ.succ.succ.succ.succ.succ.succ => exact .inr rfl

theorem Moves.answerConfigFrame (s : State) (payload : List Byte) :
    Moves C s (Machine.answerConfigFrame payload s).state := by
  cases payload with
  | nil => exact .refl
  | cons code bytes =>
    rcases answerConfigFrame_cons code bytes s with ⟨answer, hitem, heq⟩ | heq
    · rw [heq]
      generalize code.toNat = item at hitem
      cases hitem with
      | lineA => exact Moves.stageItem s fun _ _ => itemLineA_inRange
      | lineB => exact Moves.stageItem s fun _ _ => itemLineB_inRange
      | lineC => exact Moves.stageItem s fun _ _ => itemLineC_inRange
      | factors => exact Moves.stageItem s fun _ _ => itemFactors_inRange
      | upstream => exact Moves.stageItem s fun _ _ => itemUpstream_inRange
      | input => exact Moves.stageItem s fun _ _ => itemInput_inRange
      | slot => exact Moves.stageItem s fun _ _ => itemSlot_inRange
      | slotB => exact Moves.stageItem s fun _ _ => itemSlotB_inRange
      | clear => exact Moves.stageItem s fun _ _ => itemClear_inRange
      | label => exact Moves.answerLabel s _
      | commit => exact Moves.answerCommit s
    · rw [heq]
      exact .refl

/-! ### Receiving -/

/-- The layouts of the notices that a block takes (section 7.4): a class, a payload, and what its block does. -/
inductive HeardNotice (source : Addr) : Nat → List Byte → (State → State) → Prop
  | jam (b0 b1 b2 b3 : Byte) :
      HeardNotice source 0 [b0, b1, b2, b3] fun s => if s.takesJam source then s.hearJam source else s
  | passage (b0 b1 b2 : Byte) :
      HeardNotice source 1 [b0, b1, b2] fun s =>
        if s.takesPassage source (if b2.getLsbD 1 then .divert else .straight) then
          s.hearPassage source (word16 b0 b1) (b2.extractLsb' 5 3) (b2.extractLsb' 2 3)
        else s
  | taken (b0 b1 b2 b3 : Byte) :
      HeardNotice source 2 [b0, b1, b2, b3] fun s => if s.plannerHears source then s.hearTaken source else s
  | claim (b0 b1 b2 b3 : Byte) :
      HeardNotice source 3 [b0, b1, b2, b3] fun s =>
        if s.plannerHears source && !claimIgnored b0.toNat b1.toNat then s.hearClaim source b0 else s
  | withdraw : HeardNotice source 3 [] fun s => if s.plannerHears source then s.hearWithdraw source else s

/-- A frame of a layout is taken by its block, and every other one changes nothing. -/
theorem State.hearNotice_cases (s : State) (f : Frame) :
    (∃ effect, HeardNotice f.source f.cls f.payload effect ∧ s.hearNotice f = effect s) ∨ s.hearNotice f = s := by
  obtain ⟨cls, priority, source, dest, payload, checkOk⟩ := f
  delta State.hearNotice
  dsimp only
  rcases cls with _ | _ | _ | _ | cls
  case zero =>
    rcases payload with _ | ⟨b0, _ | ⟨b1, _ | ⟨b2, _ | ⟨b3, _ | ⟨_, _⟩⟩⟩⟩⟩
    case cons.cons.cons.cons.nil => exact .inl ⟨_, .jam _ _ _ _, rfl⟩
    all_goals exact .inr rfl
  case succ.zero =>
    rcases payload with _ | ⟨b0, _ | ⟨b1, _ | ⟨b2, _ | ⟨_, _⟩⟩⟩⟩
    case cons.cons.cons.nil => exact .inl ⟨_, .passage _ _ _, rfl⟩
    all_goals exact .inr rfl
  case succ.succ.zero =>
    rcases payload with _ | ⟨b0, _ | ⟨b1, _ | ⟨b2, _ | ⟨b3, _ | ⟨_, _⟩⟩⟩⟩⟩
    case cons.cons.cons.cons.nil => exact .inl ⟨_, .taken _ _ _ _, rfl⟩
    all_goals exact .inr rfl
  case succ.succ.succ.zero =>
    rcases payload with _ | ⟨b0, _ | ⟨b1, _ | ⟨b2, _ | ⟨b3, _ | ⟨_, _⟩⟩⟩⟩⟩
    case nil => exact .inl ⟨_, .withdraw, rfl⟩
    case cons.cons.cons.cons.nil => exact .inl ⟨_, .claim _ _ _ _, rfl⟩
    all_goals exact .inr rfl
  case succ.succ.succ.succ => exact .inr rfl

theorem Moves.hearNotice (s : State) (f : Frame) : Moves C s (s.hearNotice f) := by
  rcases s.hearNotice_cases f with ⟨effect, hlayout, heq⟩ | heq
  · rw [heq]
    generalize f.cls = cls, f.payload = payload at hlayout
    cases hlayout with
    | jam => exact Moves.of_ite fun htakes => Moves.hearJam s _ (State.takesJam_operating htakes)
    | passage => exact Moves.of_ite fun htakes => Moves.hearPassage s _ _ _ _ (State.takesPassage_operating htakes)
    | taken => exact Moves.of_ite fun hhears => .single (.hearTaken s _ hhears)
    | claim => exact Moves.of_ite fun hhears => .single (.hearClaim s _ _ (Bool.and_eq_true_iff.1 hhears).1)
    | withdraw => exact Moves.of_ite fun hhears => .single (.filterView s _ ((s.plannerHears_iff _).1 hhears).1)
  · rw [heq]

theorem Moves.handOn (s : State) (f : Frame) (hrunning : s.running = true) : Moves C s (s.handOn f) := by
  unfold State.handOn
  split
  · split
    · exact .single (.setWitness s _ hrunning)
    split
    · exact .refl
    next hheard =>
      have hheard' : s.silenced = false := by simpa using hheard
      split
      · refine Moves.witnessed hrunning ?_
        unfold answerQueryFrame
        split
        · split
          · exact Moves.answerQuery s _ _ _ hrunning hheard'
          · exact .refl
        · exact .refl
      · exact Moves.witnessed hrunning (Moves.answerConfigFrame s _)
  · refine (Moves.hearNotice s f).tail (.setWitness _ _ ?_)
    rw [State.running_iff] at hrunning ⊢
    rwa [(Moves.hearNotice (C := C) s f).leaves.2.1]

theorem Moves.receive (s : State) (f : Frame) (hrunning : s.running = true) (hwaits : s.bus.activity = .waiting) :
    Moves C s (s.receive f) := by
  unfold State.receive
  split
  · split
    · exact .refl
    · exact .single (.enterSilenced s hrunning hwaits)
  split
  · exact Moves.handOn s f hrunning
  · exact .refl

end Runs

end Sys2Proof.Machine
end

section
/-! SUPPORT. What every command and every step answers, in moves. -/

namespace Sys2Proof.Machine

open Sys2Proof

section Runs

variable {C : Nat → Prop} {s t u : State}

theorem Effect.of_configCommand {answer : State → Answer} (hanswer : configCommand answer s = .next t)
    (hmoves : Moves C s (answer s).state) : Effect C s t := by
  refine Effect.of_if hanswer fun hheard => Moves.witnessed ?_ hmoves
  exact (Bool.and_eq_true_iff.1 hheard).1

theorem Effect.of_queryCommand {kind : QueryKind} {querier : Addr} {arg : BitVec 5}
    (hanswer : queryCommand kind querier arg s = .next t) : Effect C s t := by
  refine Effect.of_if hanswer fun hheard => ?_
  simp only [State.hearsAddressed, Bool.and_eq_true, Bool.not_eq_true'] at hheard
  obtain ⟨⟨hrunning, hsilenced⟩, -⟩ := hheard
  exact Moves.witnessed hrunning (Moves.answerQuery s kind querier arg hrunning hsilenced)

theorem operating_of_and {b : Bool} (h : (s.operating && b) = true) : s.node = .operating :=
  s.operating_iff.1 (Bool.and_eq_true_iff.1 h).1

theorem Replaces.not_credit {command : Instr} (hreplace : ∀ slot, command ≠ .replace slot)
    (hconfirm : command ≠ .confirm) (slot : Nat) : ¬Replaces command s slot :=
  fun h => h.elim (hreplace slot) fun h => hconfirm h.1

theorem Effect.of_credit {command : Instr} {increment : SlotConfig → Component → Nat}
    (hanswer : (if s.operating then done ((s.take command).creditAll increment) else .next (s.take command)) = .next t)
    (hreplace : ∀ slot, command ≠ .replace slot) (hconfirm : command ≠ .confirm) :
    Effect (Replaces command s) s t :=
  Effect.of_if_taken hanswer fun hop =>
    (Moves.take s _).trans (Moves.creditAll _ _ (s.operating_iff.1 hop) (Replaces.not_credit hreplace hconfirm))

theorem strapMode_ne_mute (straps : Straps) : strapMode straps ≠ .mute := by
  unfold strapMode
  split <;> exact (nomatch ·)

theorem exec_effect_resetFall (hanswer : execResetFall s = .next t) : Effect C s t := by
  unfold execResetFall at hanswer
  split at hanswer
  next =>
    cases hanswer
    by_cases hop : s.operating = true
    · rw [if_pos hop]
      have hnode := s.operating_iff.1 hop
      exact .restarted (Moves.step (.finishWrites s) (Moves.writeRecords s.finishWrites _ hnode)) _ _ _ _ _ 0 (strapMode_ne_mute _)
    · rw [if_neg hop]
      exact .restarted (.single (.finishWrites s)) _ _ _ _ _ 0 (strapMode_ne_mute _)
  next => cases hanswer; exact .none

theorem exec_effect_frameJoin {silence : Nat} (hanswer : execFrameJoin silence s = .next t) : Effect C s t := by
  unfold execFrameJoin at hanswer
  split at hanswer
  next hmay =>
    cases hanswer
    simp only [Bool.and_eq_true] at hmay
    exact .moved (.single (.beginSending s hmay.1.1))
  next =>
    exact Effect.of_if hanswer fun hreads => .single (.beginReception s (Bool.and_eq_true_iff.1 hreads).1)

theorem exec_effect_frameReceived {cells : List Bool} (hanswer : execFrameReceived cells s = .next t) :
    Effect C s t := by
  unfold execFrameReceived at hanswer
  split at hanswer
  next hreads =>
    have hrunning := (Bool.and_eq_true_iff.1 hreads).1
    split at hanswer
    next => cases hanswer; exact .moved (.single (.endReception s _ hreads (.inr rfl)))
    next f _ =>
      cases hanswer
      exact .moved (Moves.step (.endReception s _ hreads (.inl rfl)) (Moves.receive _ f hrunning rfl))
  next => cases hanswer; exact .none

theorem exec_effect_arrival {latch : BitVec 6} (hanswer : execArrival latch s = .next t) : Effect C s t := by
  have hedge : Moves C s (s.edge .entryEye true) := Moves.edge s (by simp) (by simp)
  unfold execArrival at hanswer
  split at hanswer
  next hop =>
    have hnode := s.operating_iff.1 hop
    split at hanswer
    next => cases hanswer; exact .moved (hedge.trans (Moves.reviewHold _ hnode))
    next hcalm => cases hanswer; exact .moved (hedge.trans (Moves.arrive _ latch hnode hcalm))
  next => cases hanswer; exact .none

theorem exec_effect_departure {exit : ExitPath} (hanswer : execDeparture exit s = .next t) : Effect C s t := by
  have hedge : Moves C s (s.edge (exitFn exit) true) :=
    Moves.edge s (by cases exit <;> simp [exitFn]) fun _ => rfl
  unfold execDeparture at hanswer
  split at hanswer
  next hop =>
    have hnode := operating_of_and hop
    split at hanswer
    next => cases hanswer; exact .moved (hedge.trans (Moves.reviewHold _ hnode))
    next => cases hanswer; exact .moved (hedge.trans (Moves.depart _ exit hnode))
  next => cases hanswer; exact .none

theorem Moves.eyeClear (eye : Eye) (hnode : s.node = .operating) :
    Moves C s
      { s.edge (eyeFn eye) false with tracker := (s.edge (eyeFn eye) false).tracker.endBlocked eye }.reviewHold := by
  have hedge : Moves C s (s.edge (eyeFn eye) false) :=
    Moves.edge s (by cases eye <;> simp [eyeFn]) (by cases eye <;> simp [eyeFn])
  have hend : Move C (s.edge (eyeFn eye) false)
      ((s.edge (eyeFn eye) false).setTracker ((s.edge (eyeFn eye) false).tracker.endBlocked eye)) := by
    rw [Tracker.endBlocked_eq]
    exact .track _ _ hnode (fun h => h.clearBlocked (ite_eq_or_zero _ _) (ite_eq_or_zero _ _) (ite_eq_or_zero _ _))
      (.inl rfl)
  exact (hedge.tail hend).trans (Moves.reviewHold _ hnode)

theorem Moves.clearHoldComplete (hnode : s.node = .operating) (hclear : s.clearCondition = true) :
    Moves C s
      { s with
        tracker :=
          { s.tracker with
            sectionState := .stopped, pieces := [], entryBlocked := 0, straightBlocked := 0, divertBlocked := 0,
            clearHold := none } } := by
  refine .single (.track s _ hnode (fun hlawful => ?_) (.inr (.inr ⟨rfl, (s.clearCondition_iff.1 hclear).1⟩)))
  obtain ⟨hin, -, hinAge, -, htag, hcounts, -, -, -⟩ := hlawful
  exact ⟨hin, Nat.zero_le _, hinAge, .nil, htag, hcounts, (nomatch ·), (nomatch ·), rfl⟩

theorem exec_effect_motorStart (hanswer : execMotorStart s = .next t) : Effect C s t :=
  Effect.of_if hanswer fun hop =>
    (Moves.turnMotor s true (s.operating_iff.1 hop)).trans (Moves.hand _ [.startSurcharge])

theorem exec_effect_motorStop (hanswer : execMotorStop s = .next t) : Effect C s t :=
  Effect.of_if hanswer fun hop => Moves.turnMotor s false (s.operating_iff.1 hop)

theorem exec_effect_lost {cell : Nat} (hanswer : execArbitrationLost cell s = .next t) : Effect C s t := by
  unfold execArbitrationLost at hanswer
  split at hanswer
  next => cases hanswer; exact .none
  next n hsends => exact Effect.of_if hanswer fun _ => .single (.lose s n hsends)

theorem exec_effect_abort {cell : Nat} (hanswer : execFrameAbort cell s = .next t) : Effect C s t := by
  unfold execFrameAbort at hanswer
  split at hanswer
  next => cases hanswer; exact .none
  next n hsends => exact Effect.of_if hanswer fun _ => .single (.abort s n hsends)

theorem exec_effect_complete {witnessed : Bool} (hanswer : execFrameComplete witnessed s = .next t) :
    Effect C s t := by
  unfold execFrameComplete at hanswer
  split at hanswer
  next => cases hanswer; exact .none
  next n hsends => cases hanswer; exact .moved (Moves.frameComplete s n hsends)

theorem Moves.checkpoint (hnode : s.node = .operating) :
    Moves C s ((s.take .checkpoint).setDue []).checkpointAll :=
  (Moves.take s _).trans (Moves.step (.setDue _ [] hnode) (Moves.writeRecords _ _ hnode))

theorem Moves.runHour (hnode : s.node = .operating) :
    Moves C s
      ((if s.handed.contains .runHourBoundary then s.take .runHourBoundary
        else (s.take .runHourBoundary).countHour).rework (Component.hour s.cfg)) := by
  split
  · exact (Moves.take s _).trans (Moves.hour _ hnode)
  · exact ((Moves.take s _).trans (Moves.countHour _ hnode)).trans (Moves.hour _ hnode)

end Runs

/-- What a command answers is one of its effects. -/
theorem exec_effect {command : Instr} {s t : State} (hanswer : exec command s = .next t) :
    Effect (Replaces command s) s t := by
  cases command with
  | powerOn straps resetHigh =>
    by_cases hpower : s.power = true
    · cases (if_pos hpower).symm.trans hanswer; exact .none
    · cases (if_neg hpower).symm.trans hanswer; exact .restarted .refl _ _ _ _ _ 0 (strapMode_ne_mute _)
  | resetFall => exact exec_effect_resetFall hanswer
  | resetRise straps =>
    by_cases hrises : (s.power && !s.resetLine.level) = true
    · cases (if_pos hrises).symm.trans hanswer; exact .restarted .refl _ _ _ _ _ 0 (strapMode_ne_mute _)
    · cases (if_neg hrises).symm.trans hanswer; exact .none
  | startComplete damage levels =>
    by_cases hstarts : (s.power && s.node == .starting && s.resetLine.level) = true
    · cases (if_pos hstarts).symm.trans hanswer
      simp only [Bool.and_eq_true, beq_iff_eq] at hstarts
      exact .started damage levels hstarts.1.2
    · cases (if_neg hstarts).symm.trans hanswer; exact .none
  | powerLoss begun =>
    by_cases hpower : s.power = true
    · cases (if_pos hpower).symm.trans hanswer; exact .restarted .refl _ _ _ _ _ begun (nomatch ·)
    · cases (if_neg hpower).symm.trans hanswer; exact .none
  | pulseCounted line => exact Effect.of_if hanswer fun hop => Moves.pulse s line (operating_of_and hop)
  | arrival latch => exact exec_effect_arrival hanswer
  | departure exit => exact exec_effect_departure hanswer
  | eyeClear eye => exact Effect.of_if hanswer fun hop => Moves.eyeClear eye (operating_of_and hop)
  | motorStart => exact exec_effect_motorStart hanswer
  | motorStop => exact exec_effect_motorStop hanswer
  | maintRise => exact Effect.of_if hanswer fun hop => Moves.maintRise s (s.operating_iff.1 hop)
  | maintFall => exact Effect.of_if hanswer fun hop => Moves.maintFall s (s.operating_iff.1 hop)
  | confirm =>
    refine Effect.of_if hanswer fun hop => ?_
    have hopen := State.listWorking_open (Bool.and_eq_true_iff.1 hop).2
    exact (Moves.countChoice s).trans
      (Moves.confirmHead s.countChoice _ (operating_of_and hop) hopen (.inr ⟨rfl, rfl⟩))
  | decline =>
    refine Effect.of_if hanswer fun hop => ?_
    have hopen := State.listWorking_open (Bool.and_eq_true_iff.1 hop).2
    exact Moves.step (.closeHead s .declined (operating_of_and hop) hopen (by simp))
      (Moves.offer _ _ (operating_of_and hop) rfl rfl)
  | samplePeriodEnd => exact Effect.of_if hanswer fun hop => Moves.samplePeriodEnd s (s.operating_iff.1 hop)
  | checkpoint => exact Effect.of_if_taken hanswer fun hop => Moves.checkpoint (s.operating_iff.1 hop)
  | claimRefresh =>
    refine Effect.of_if hanswer fun hop => ?_
    have hnode := s.operating_iff.1 hop
    exact Moves.step (.copyAnnounced s hnode) (Moves.claimDecision _ _ hnode)
  | runHourBoundary => exact Effect.of_if_taken hanswer fun hop => Moves.runHour (s.operating_iff.1 hop)
  | transitJam => exact Effect.of_if hanswer fun hop => Moves.jam s .transit (operating_of_and hop)
  | blockedJam => exact Effect.of_if hanswer fun hop => Moves.jam s .blocked (operating_of_and hop)
  | clearHoldComplete =>
    refine Effect.of_if hanswer fun hop => ?_
    simp only [Bool.and_eq_true, State.operating_iff] at hop
    exact Moves.clearHoldComplete hop.1.1.1 hop.1.2
  | pieceCredit => exact Effect.of_credit hanswer (by simp) (by simp)
  | distanceCredit => exact Effect.of_credit hanswer (by simp) (by simp)
  | startSurcharge => exact Effect.of_credit hanswer (by simp) (by simp)
  | jamSurcharge => exact Effect.of_credit hanswer (by simp) (by simp)
  | replace slot =>
    exact Effect.of_if_taken hanswer fun hop =>
      (Moves.take s _).trans (Moves.replaceSlot _ slot (operating_of_and hop) (.inl rfl))
  | pendingHoldExpiry =>
    refine Effect.of_if hanswer fun hop => ?_
    simp only [Bool.and_eq_true, State.operating_iff, beq_iff_eq] at hop
    exact .single (.endPending s hop.1.1 hop.1.2)
  | claimEntryAgeOut addr =>
    exact Effect.of_if hanswer fun hop => .single (.filterView s _ (s.operating_iff.1 hop))
  | muteEnd =>
    refine Effect.of_if hanswer fun hop => .single (.muteEnd s (Bool.and_eq_true_iff.1 hop).1 ?_)
    cases hmute : s.bus.muteMs with
    | none => simp [hmute] at hop
    | some ms => rfl
  | busIdle =>
    refine Effect.of_if hanswer fun hop => ?_
    simp only [Bool.and_eq_true, Bool.not_eq_true', Option.isSome_eq_false_iff, Option.isNone_iff_eq_none] at hop
    exact .single (.busIdle s hop.1 hop.2)
  | frameStart =>
    exact Effect.of_if hanswer fun hop => .single (.beginSending s (Bool.and_eq_true_iff.1 hop).1)
  | frameJoin silence => exact exec_effect_frameJoin hanswer
  | arbitrationLost cell => exact exec_effect_lost hanswer
  | frameAbort cell => exact exec_effect_abort hanswer
  | frameComplete witnessed => exact exec_effect_complete (witnessed := witnessed) hanswer
  | frameReceived cells => exact exec_effect_frameReceived hanswer
  | passageReceived source tag thickness mass exit phantom =>
    exact Effect.of_if hanswer fun htakes => Moves.hearPassage s _ _ _ _ (State.takesPassage_operating htakes)
  | jamReceived source =>
    exact Effect.of_if hanswer fun htakes => Moves.hearJam s _ (State.takesJam_operating htakes)
  | takenHeard source => exact Effect.of_if hanswer fun hhears => .single (.hearTaken s source hhears)
  | claimReceived source urgency due hours =>
    exact Effect.of_if hanswer fun hhears => .single (.hearClaim s source urgency (Bool.and_eq_true_iff.1 hhears).1)
  | withdrawReceived source =>
    exact Effect.of_if hanswer fun hhears => .single (.filterView s _ ((s.plannerHears_iff source).1 hhears).1)
  | queryIdentity => exact Effect.of_queryCommand hanswer
  | querySection => exact Effect.of_queryCommand hanswer
  | queryCounts => exact Effect.of_queryCommand hanswer
  | queryComponent => exact Effect.of_queryCommand hanswer
  | queryOrder => exact Effect.of_queryCommand hanswer
  | queryList => exact Effect.of_queryCommand hanswer
  | queryCommission => exact Effect.of_queryCommand hanswer
  | lineA => exact Effect.of_configCommand hanswer (Moves.stageItem s fun _ _ => itemLineA_inRange)
  | lineB => exact Effect.of_configCommand hanswer (Moves.stageItem s fun _ _ => itemLineB_inRange)
  | lineC => exact Effect.of_configCommand hanswer (Moves.stageItem s fun _ _ => itemLineC_inRange)
  | factors => exact Effect.of_configCommand hanswer (Moves.stageItem s fun _ _ => itemFactors_inRange)
  | upstream => exact Effect.of_configCommand hanswer (Moves.stageItem s fun _ _ => itemUpstream_inRange)
  | input => exact Effect.of_configCommand hanswer (Moves.stageItem s fun _ _ => itemInput_inRange)
  | slot => exact Effect.of_configCommand hanswer (Moves.stageItem s fun _ _ => itemSlot_inRange)
  | slotB => exact Effect.of_configCommand hanswer (Moves.stageItem s fun _ _ => itemSlotB_inRange)
  | clear => exact Effect.of_configCommand hanswer (Moves.stageItem s fun _ _ => itemClear_inRange)
  | label value => exact Effect.of_configCommand hanswer (Moves.answerLabel s value)
  | commit => exact Effect.of_configCommand hanswer (Moves.answerCommit s)
  | commitWritesDone => exact Effect.of_if hanswer fun _ => .single (.finishWrites s)
  | busBusy =>
    exact Effect.of_if hanswer fun hop => .single (.beginReception s (Bool.and_eq_true_iff.1 hop).1)

/-! ### The clock -/

theorem LevelLine.sample_level (l : LevelLine) (raw : Bool) (filterMs : Nat) :
    (l.sample raw filterMs).level = l.level := by
  unfold LevelLine.sample
  split <;> rfl

theorem pairwise_map_succ {α : Type} {age : α → Nat} {grow : α → α} (hgrow : ∀ a, age (grow a) = age a + 1) {l : List α}
    (hl : l.Pairwise fun older newer => age newer ≤ age older) :
    (l.map grow).Pairwise fun older newer => age newer ≤ age older := by
  rw [List.pairwise_map]
  exact hl.imp fun h => by rw [hgrow, hgrow]; exact Nat.succ_le_succ h

theorem Tracker.Lawful.tick {t : Tracker} (hlawful : t.Lawful) (levels : Levels) : (t.tick levels).Lawful := by
  obtain ⟨hin, hlength, hinAge, hage, htag, hcounts, hjam, hhold, hms⟩ := hlawful
  refine ⟨(List.length_map _).trans_le hin, ?_,
    pairwise_map_succ (age := InboundEntry.age) (fun _ => rfl) hinAge, ?_, htag, hcounts, fun hjammed => ?_,
    fun hsome => hhold (by simpa [Tracker.tick] using hsome), ?_⟩
  · change (if _ then _ else _ : List PieceRecord).length ≤ _
    split
    · rwa [List.length_map]
    · exact hlength
  · change List.Pairwise _ (if _ then _ else _ : List PieceRecord)
    split
    · exact pairwise_map_succ (age := PieceRecord.age) (fun _ => rfl) hage
    · exact hage
  · have hjammed' : t.sectionState = .jammed := hjammed
    have hrun : (t.sectionState == .running) = false := by rw [hjammed']; rfl
    simp only [Tracker.tick, hrun, Bool.false_and, Bool.false_eq_true, if_false]
    exact hjam hjammed'
  · change Option.all _ (t.clearHold.map fun n => min Config.clearHoldMs (n + 1)) = true
    cases t.clearHold with
    | none => rfl
    | some ms => exact decide_eq_true (Nat.min_le_left _ _)

/-- The moves that are neither a REPLACE nor a CONFIRM's. -/
abbrev Calm : State → State → Prop := Moves fun _ => False

theorem Calm.tickOperating (s : State) (hnode : s.node = .operating) : Calm s s.tickOperating :=
  Moves.step
    (.lineTick s s.filterLines hnode (LevelLine.sample_level _ _ _) (LevelLine.sample_level _ _ _))
    (Moves.step (.track _ (s.tracker.tick s.lines.levels) hnode (fun h => h.tick _) (.inl rfl))
      (Moves.step (.plannerTick _ hnode)
        (.single (.agenda _ (s.handed ++ if s.lines.hourDue then [.runHourBoundary] else []) s.choices s.pins s.pending
          (s.account.nodeMarked || s.lines.levels.motorRun.level) s.account.labelTaken))))

/-- A millisecond with power is that of every state, and then a calm run of moves. -/
theorem State.tick_calm (s : State) : Calm s s.tick ∨ Calm s.tickAlways s.tick := by
  unfold State.tick
  split
  next =>
    dsimp only
    split
    next hop =>
      exact .inr ((Calm.tickOperating s.tickAlways (s.operating_iff.1 hop)).trans (Moves.putPending _ _))
    next => exact .inr (Moves.putPending _ _)
  next => exact .inl .refl

theorem State.idle_calm (s : State) : Calm s s.idle ∨ Calm s.tickAlways s.idle := by
  unfold State.idle
  split
  next hdue =>
    have hnode := operating_of_and hdue
    refine .inl ?_
    unfold State.writeDue
    split
    · exact .refl
    · exact Moves.step (.setDue s _ hnode) (.single (.writeRecord _ _ hnode))
  split
  next work _ _ =>
    split
    next hbegins => exact .inl ((Moves.take s _).tail (.setDue _ _ (operating_of_and hbegins)))
    next => exact .inl (Moves.putPending _ _)
  next => exact s.tick_calm

/-- A step runs the front command, or on an empty queue is calm but for what a millisecond brings in every state. -/
theorem step_effect {s t : State} (hstep : step s = .next t) :
    (∃ command rest, s.pending = command :: rest ∧ Effect (Replaces command s) (s.withPending rest) t) ∨
      (s.pending = [] ∧ (Calm s t ∨ Calm s.tickAlways t)) := by
  unfold step at hstep
  split at hstep
  next command rest hpending =>
    exact .inl ⟨command, rest, hpending, exec_effect hstep⟩
  next hpending =>
    cases hstep
    exact .inr ⟨hpending, s.idle_calm⟩

end Sys2Proof.Machine
end

section
/-! SUPPORT. A law is kept by every step where each kind of effect keeps it; the laws of the Piece Tracker and of
MOTOR_RUN. -/

namespace Sys2Proof.Machine

open Sys2Proof

/-- What keeps a law through every step: moves, the outputs that follow, a restart, the end of a start, and what a
millisecond brings in every state. -/
structure Kept (P : State → Prop) : Prop where
  move : ∀ {C : Nat → Prop} {u v : State}, Move C u v → P u → P v
  settle : ∀ {u : State}, P u → P u.settle
  restarted : ∀ {u : State} (power : Bool) (resetLine : LevelLine) (straps : Straps) (pins : Pins) (mode : BusMode)
    (begun : Nat), mode ≠ .mute → P u → P (u.restarted power resetLine straps pins mode begun)
  started : ∀ {u : State} (damage : List StoreDamage) (levels : BitVec 24), u.node = .starting → P u →
    P (u.startWith (u.account.records.damaged damage) (u.account.records.damaged damage).found levels)
  tickAlways : ∀ {u : State}, P u → P u.tickAlways

theorem Kept.effect {P : State → Prop} (hkept : Kept P) {C : Nat → Prop} {s t : State} (heffect : Effect C s t)
    (hs : P s) : P t := by
  have hmoves {u : State} (h : Moves C s u) : P u := h.keeps (fun _ _ => hkept.move) hs
  cases heffect with
  | none => exact hs
  | taken work => exact hmoves (Moves.take s work)
  | moved h => exact hkept.settle (hmoves h)
  | restarted h _ _ _ _ _ _ hmode => exact hkept.settle (hkept.restarted _ _ _ _ _ _ hmode (hmoves h))
  | started damage levels hnode => exact hkept.settle (hkept.started damage levels hnode hs)

theorem Kept.step {P : State → Prop} (hkept : Kept P) {s t : State} (hstep : step s = .next t) (hs : P s) : P t := by
  have hcalm {u : State} (hu : P u) (h : Calm u t) : P t := h.keeps (fun _ _ => hkept.move) hu
  rcases step_effect hstep with ⟨command, rest, -, heffect⟩ | ⟨-, h | h⟩
  · exact hkept.effect heffect
      ((Moves.putPending (C := fun _ => False) s rest).keeps (fun _ _ => hkept.move) hs)
  · exact hcalm hs h
  · exact hcalm (hkept.tickAlways hs) h

/-! ### Piece Tracker -/

theorem TrackerLaw.reset : State.reset.tracker.Lawful := by decide

theorem State.startWith_tracker (s : State) (records : Store) (found : FoundStore) (levels : BitVec 24) :
    ∃ sectionState, sectionState ≠ .jammed ∧
      (s.startWith records found levels).tracker = { State.reset.tracker with sectionState := sectionState } := by
  unfold State.startWith State.leaveStarting
  split
  · exact ⟨.stopped, by simp, rfl⟩
  split
  · refine ⟨if _ then .running else .stopped, ?_, rfl⟩
    split <;> simp
  · exact ⟨.stopped, by simp, rfl⟩

/-- The laws of the tracker and of MOTOR_RUN, which the moves of the Line Input Unit and of the tracker can touch. -/
theorem trackerSide_kept : Kept fun s => TrackerLaw s ∧ MotorLaw s where
  settle := id
  tickAlways := id
  restarted _ _ _ _ _ _ _ _ := ⟨TrackerLaw.reset, (nomatch ·)⟩
  started {u} damage levels _ _ := by
    refine ⟨?tracker, ?motor⟩
    case tracker =>
      obtain ⟨sectionState, hcalm, htracker⟩ := u.startWith_tracker (u.account.records.damaged damage)
        (u.account.records.damaged damage).found levels
      obtain ⟨hin, hlength, hinAge, hage, htag, hcounts, -, -, hms⟩ := TrackerLaw.reset
      unfold TrackerLaw
      rw [htracker]
      exact ⟨hin, hlength, hinAge, hage, htag, hcounts, fun h => absurd h hcalm, (nomatch ·), hms⟩
    case motor =>
      unfold State.startWith State.leaveStarting
      split
      · exact (nomatch ·)
      split
      · intro _
        change ((if _ then _ else _ : SectionState) = _ → _) ∧ ((if _ then _ else _ : SectionState) = _ → _)
        split
        next hhigh => exact ⟨fun _ => hhigh, (nomatch ·)⟩
        next hlow => exact ⟨(nomatch ·), fun _ => Bool.not_eq_true _ ▸ hlow⟩
      · exact (nomatch ·)
  move {C u v} hmove hu := by
    obtain ⟨htracker, hfollows⟩ := hu
    cases hmove with
    | levels levels hmotor _ => exact ⟨htracker, fun hnode => hmotor ▸ hfollows hnode⟩
    | lineTick levels _ hmotor _ =>
      refine ⟨htracker, fun hnode => ?_⟩
      have hticked : (u.lines.tick levels).levels.motorRun.level = u.lines.levels.motorRun.level := hmotor
      change (_ → (u.lines.tick levels).levels.motorRun.level = true) ∧
        (_ → (u.lines.tick levels).levels.motorRun.level = false)
      rw [hticked]
      exact hfollows hnode
    | track tracker _ hkept hsection =>
      refine ⟨hkept htracker, fun hnode => ?_⟩
      obtain ⟨hrunning, hstopped⟩ := hfollows hnode
      rcases hsection with hsame | hjammed | ⟨hstop, hlow⟩
      · exact ⟨fun h => hrunning (hsame.symm.trans h), fun h => hstopped (hsame.symm.trans h)⟩
      · exact ⟨fun h => (nomatch hjammed.symm.trans h), fun h => (nomatch hjammed.symm.trans h)⟩
      · exact ⟨fun h => (nomatch hstop.symm.trans h), fun _ => hlow⟩
    | turnMotor high _ =>
      obtain ⟨hin, hlength, hinAge, hage, htag, hcounts, hjam, hhold, hms⟩ := htracker
      refine ⟨⟨hin, hlength, hinAge, hage, htag, hcounts, fun h => hjam ?_, fun h => if_pos (hhold h), hms⟩,
        fun _ => ?_⟩
      · by_contra hcalm
        simp only [State.turnMotor, hcalm, if_false] at h
        split at h <;> cases h
      · change ((if _ then _ else _ : SectionState) = _ → high = true) ∧
          ((if _ then _ else _ : SectionState) = _ → high = false)
        split
        · exact ⟨(nomatch ·), (nomatch ·)⟩
        · cases high <;> simp
    | appendDue => rw [State.appendDue_frame]; exact ⟨htracker, hfollows⟩
    | writeRecord => rw [State.writeRecord_frame]; exact ⟨htracker, hfollows⟩
    | openWindow => rw [State.openWindow_frame]; exact ⟨htracker, hfollows⟩
    | hearTaken => rw [State.hearTaken_frame]; exact ⟨htracker, hfollows⟩
    | retryTaken => rw [State.retryTaken_frame]; exact ⟨htracker, hfollows⟩
    | offer => rw [State.offer_frame]; exact ⟨htracker, hfollows⟩
    | takeQuery => rw [State.takeQuery_frame]; exact ⟨htracker, hfollows⟩
    | beginSending => rw [State.beginSending_frame]; exact ⟨htracker, hfollows⟩
    | lose => rw [State.takeBack_frame]; exact ⟨htracker, hfollows⟩
    | abort => rw [State.takeBack_frame]; exact ⟨htracker, hfollows⟩
    | _ => exact ⟨htracker, hfollows⟩

/-- Settles O54: the laws are kept by every move, and a restart or a start ends in a tracker that holds nothing. -/
theorem stepsKeepTheTracker : Obligations.StepsKeepTheTracker := by
  unfold Obligations.StepsKeepTheTracker
  intro s t htracker hmotor hstep
  exact trackerSide_kept.step hstep ⟨htracker, hmotor⟩

end Sys2Proof.Machine
end

section
/-! SUPPORT. The component table: its laws slot by slot, what each move does to it, and its accounts. -/

namespace Sys2Proof.Machine

open Sys2Proof

/-! ### The table slot by slot -/

theorem forall_zip_iff {R : SlotConfig → Component → Prop} (slots : List SlotConfig) (comps : List Component) :
    (∀ p ∈ slots.zip comps, R p.1 p.2) ↔
      ∀ i, i < slots.length → i < comps.length → R (slots.getD i .blank) (comps.getD i .zero) := by
  constructor
  · intro h i hslots hcomps
    have hzip : i < (slots.zip comps).length := by simp [hslots, hcomps]
    simpa [hslots, hcomps] using h _ (List.getElem_mem hzip)
  · intro h p hp
    obtain ⟨i, hi, rfl⟩ := List.mem_iff_getElem.1 hp
    obtain ⟨hslots, hcomps⟩ : i < slots.length ∧ i < comps.length := by simpa using hi
    simpa [hslots, hcomps] using h i hslots hcomps

/-- The node values are those that the fold gives, and no others (R89). -/
theorem forecastOf_iff (slots : List SlotConfig) (comps : List Component) (v : NodeForecast) :
    ForecastOf slots comps v ↔ v = nodeForecast slots comps := by
  constructor
  · intro hv
    obtain ⟨hle, hattained, hcount, hmin, htop, hearliest⟩ := hv
    obtain ⟨hle', hattained', hcount', hmin', htop', hearliest'⟩ := nodeForecast_of slots comps
    have hurgency : v.urgency = (nodeForecast slots comps).urgency := by
      refine Nat.le_antisymm ?_ ?_
      · rcases hattained with hzero | ⟨c, hc, heq⟩
        · exact hzero.le.trans (Nat.zero_le _)
        · exact heq.symm.le.trans (hle' c hc)
      · rcases hattained' with hzero | ⟨c, hc, heq⟩
        · exact hzero.le.trans (Nat.zero_le _)
        · exact heq.symm.le.trans (hle c hc)
    have hhours : v.earliestHours = (nodeForecast slots comps).earliestHours := by
      refine Nat.le_antisymm ?_ ?_
      · rcases hearliest' with hlast | ⟨c, hc, heq⟩
        · exact htop.trans hlast.ge
        · exact (hmin c hc).trans heq.le
      · rcases hearliest with hlast | ⟨c, hc, heq⟩
        · exact htop'.trans hlast.ge
        · exact (hmin' c hc).trans heq.le
    obtain ⟨urgency, dueCount, earliestHours⟩ := v
    simp only at hurgency hhours hcount
    rw [hurgency, hhours, hcount, ← hcount']
  · rintro rfl
    exact nodeForecast_of slots comps

/-- The node values depend on the urgencies and the hours of the records only. -/
theorem nodeForecast_congr (slots : List SlotConfig) {old new : List Component} (hlength : new.length = old.length)
    (hsame : ∀ i, (new.getD i .zero).urgency = (old.getD i .zero).urgency ∧
      (new.getD i .zero).hours = (old.getD i .zero).hours) : nodeForecast slots new = nodeForecast slots old := by
  induction slots generalizing old new with
  | nil => rfl
  | cons sl slots ih =>
    cases old with
    | nil => rw [List.length_eq_zero_iff.1 hlength]
    | cons c old =>
      cases new with
      | nil => simp at hlength
      | cons d new =>
        obtain ⟨hurgency, hhours⟩ : d.urgency = c.urgency ∧ d.hours = c.hours := hsame 0
        have hrest : nodeForecast slots new = nodeForecast slots old :=
          ih (by simpa using hlength) fun i => hsame (i + 1)
        simp only [nodeForecast, hurgency, hhours, hrest]

theorem tableLaw_iff (s : State) :
    TableLaw s ↔ s.node = .operating →
      (∀ i, i < s.cfg.slots.length → i < s.comps.length → RecordLaw s.cfg (s.cfg.slot i) (s.comp i)) ∧
        s.forecast.pending = nodeForecast s.cfg.slots s.comps :=
  imp_congr_right fun _ => and_congr (forall_zip_iff (R := RecordLaw s.cfg) _ _) (forecastOf_iff _ _ _)

/-! ### What an operation does to one slot -/

theorem State.comp_of_beyond {s : State} {i : Nat} (hi : s.comps.length ≤ i) : s.comp i = .zero := by
  rw [State.comp, List.getD_eq_getElem?_getD, List.getElem?_eq_none hi]
  rfl

theorem capped_iff (s : State) :
    Capped s ↔ ∀ i, i < s.cfg.slots.length → (s.cfg.slot i).present = true →
      (s.comp i).dyn.account ≤ capOf (s.cfg.slot i).life := by
  refine (forall_zip_iff (R := fun sl c => sl.present = true → c.dyn.account ≤ capOf sl.life) _ _).trans
    ⟨fun h i hslots => ?_, fun h i hslots _ => h i hslots⟩
  rcases lt_or_ge i s.comps.length with hcomps | hbeyond
  · exact h i hslots hcomps
  · rw [State.comp_of_beyond hbeyond]
    exact fun _ => Nat.zero_le _

/-- Each record of a present slot is reworked, every other one is as it was. -/
theorem mapSlots_comp (f : SlotConfig → Component → Component) (s : State) (i : Nat) :
    (mapSlots f s.cfg.slots s.comps).getD i .zero =
      if (s.cfg.slot i).present = true ∧ i < s.comps.length then f (s.cfg.slot i) (s.comp i) else s.comp i := by
  by_cases hi : i < s.comps.length
  · rw [mapSlots_getD _ _ _ _ hi]
    simp only [hi, and_true]
    rfl
  · rw [mapSlots_getD_beyond _ _ _ _ (Nat.le_of_not_lt hi), if_neg fun h => hi h.2]
    rfl

theorem set_comp (s : State) (slot : Nat) (c : Component) (i : Nat) :
    (s.comps.set slot c).getD i .zero = if i = slot ∧ i < s.comps.length then c else s.comp i := by
  rw [State.comp, List.getD_eq_getElem?_getD, List.getD_eq_getElem?_getD, List.getElem?_set]
  by_cases heq : slot = i
  · subst heq
    by_cases hi : slot < s.comps.length <;> simp [hi]
  · rw [if_neg heq, if_neg fun h => heq h.1.symm]

/-- Setting a flag changes the flag of its slot only, if the slot is in the table. -/
theorem State.setFlag_comp_eq (s : State) (slot : Nat) (flag : Bool) (i : Nat) :
    (s.setFlag slot flag).comp i =
      { s.comp i with openOrder := if i = slot ∧ i < s.comps.length then flag else (s.comp i).openOrder } := by
  refine (set_comp s slot _ i).trans ?_
  split
  next h => rw [h.1]
  next => rfl

theorem State.closeHead_comp (s : State) (outcome : OrderStatus) (i : Nat) :
    (s.closeHead outcome).comp i =
      { s.comp i with
        openOrder :=
          if i = (s.orders.at s.orders.head).slot ∧ i < s.comps.length then false else (s.comp i).openOrder } :=
  State.setFlag_comp_eq _ _ _ _

/-- A slot that receives an order at an entry to SERVICING is present, in the table, and has no open order (R165). -/
theorem State.mem_dueOrder {s : State} {i : Nat} (hi : i ∈ s.dueOrder) :
    i < s.cfg.slots.length ∧ i < s.comps.length ∧ (s.cfg.slot i).present = true ∧ (s.comp i).openOrder = false := by
  obtain ⟨-, hslots, hcomps, hpresent, -, hflag⟩ := (mem_dueSlots 0 _ _ i).1 ((sortDue_perm s.comps _).subset hi)
  exact ⟨hslots, hcomps, hpresent, hflag⟩

theorem State.appendDue_comp (s : State) (i : Nat) :
    s.appendDue.comp i = { s.comp i with openOrder := (s.comp i).openOrder || decide (i ∈ s.dueOrder) } :=
  State.appendOrders_comp (fun _ h => (State.mem_dueOrder h).2.1) i

theorem State.appendOrders_comps_length (s : State) (l : List Nat) :
    (s.appendOrders l).comps.length = s.comps.length := by
  induction l generalizing s with
  | nil => rfl
  | cons i is ih => exact (ih _).trans (s.appendOrder_comps_length i)

theorem State.writeRecord_comp (s : State) (name : RecordName) (i : Nat) :
    (s.writeRecord name).comp i =
      { s.comp i with
        marked := if name = .component i ∧ i < s.comps.length then false else (s.comp i).marked } := by
  cases name with
  | component slot =>
    refine (set_comp s slot _ i).trans ?_
    by_cases h : i = slot ∧ i < s.comps.length
    · obtain ⟨rfl, hi⟩ := h
      rw [if_pos ⟨rfl, hi⟩, if_pos ⟨rfl, hi⟩]
      rfl
    · rw [if_neg h, if_neg fun h' => h ⟨(RecordName.component.inj h'.1).symm, h'.2⟩]
  | order slot => simp; rfl
  | node => simp; rfl

theorem State.writeRecord_comps_length (s : State) (name : RecordName) :
    (s.writeRecord name).comps.length = s.comps.length := by
  cases name with
  | component slot => exact List.length_set
  | order slot => rfl
  | node => rfl

/-- The slip work changes the slip and the mark only (R41 to R44). -/
theorem Component.measure_eq (cfg : Configuration) (counts : List Nat) (encoder : Nat) (sl : SlotConfig)
    (c : Component) :
    c.measure cfg counts encoder sl =
      { c with
        dyn := { c.dyn with slip := (c.measure cfg counts encoder sl).dyn.slip }
        marked := (c.measure cfg counts encoder sl).marked } := by
  unfold Component.measure
  split
  · rfl
  split
  · dsimp only
    split <;> rfl
  · rfl

/-- The work of a run-hour boundary leaves account, slip, service count, LOST, wear and flag (R82, R84). -/
theorem Component.hour_eq (cfg : Configuration) (sl : SlotConfig) (c : Component) :
    c.hour cfg sl =
      { c with
        dyn := { c.dyn with rate := nextRate c.dyn, rateValid := true, hourDelta := 0 }
        hours := (c.hour cfg sl).hours, urgency := (c.hour cfg sl).urgency, band := (c.hour cfg sl).band
        marked := (c.hour cfg sl).marked } := rfl

theorem Component.hour_recordLaw {cfg : Configuration} {sl : SlotConfig} {c : Component} (hpresent : sl.present = true)
    (hrecord : RecordLaw cfg sl c) : RecordLaw cfg sl (c.hour cfg sl) := by
  simp only [RecordLaw, hpresent, if_true] at hrecord ⊢
  obtain ⟨hwear, hurgency, hband⟩ := hrecord
  have hu : (c.hour cfg sl).urgency = urgencyOf cfg.hz cfg.tWatch c.wear (c.hour cfg sl).hours := by
    unfold Component.hour
    dsimp only
    split
    next heq => rw [heq, hurgency]
    next => rfl
  have hb : (c.hour cfg sl).band =
      if (c.hour cfg sl).urgency = c.urgency then c.band else bandOf cfg.tWatch c.wear (c.hour cfg sl).urgency := rfl
  refine ⟨hwear, hu, ?_⟩
  rw [hb]
  split
  next heq => rw [hband, heq]; rfl
  next => rfl

/-- The fields of a record that is given by its fields. -/
theorem Component.fields_of_eq {c : Component} {dyn : DynRecord} {wear hours urgency : Nat} {band : Band}
    {openOrder marked : Bool}
    (hc : c = { dyn := dyn, wear := wear, hours := hours, urgency := urgency, band := band, openOrder := openOrder,
                marked := marked }) :
    c.dyn = dyn ∧ c.wear = wear ∧ c.hours = hours ∧ c.urgency = urgency ∧ c.band = band := by
  subst hc
  exact ⟨rfl, rfl, rfl, rfl, rfl⟩

theorem Component.derive_fields (cfg : Configuration) (sl : SlotConfig) (c : Component) :
    (c.derive cfg sl).dyn = c.dyn ∧ (c.derive cfg sl).wear = wearOf c.dyn.account sl.life ∧
      (c.derive cfg sl).hours = hoursOf sl.life c.dyn ∧
      (c.derive cfg sl).urgency = urgencyOf cfg.hz cfg.tWatch (c.derive cfg sl).wear (c.derive cfg sl).hours ∧
      (c.derive cfg sl).band = bandOf cfg.tWatch (c.derive cfg sl).wear (c.derive cfg sl).urgency := by
  obtain ⟨hdyn, hwear, hhours, hurgency, hband⟩ := Component.fields_of_eq (c := c.derive cfg sl) rfl
  rw [← hwear, ← hhours] at hurgency
  rw [← hwear, ← hhours, ← hurgency] at hband
  exact ⟨hdyn, hwear, hhours, hurgency, hband⟩

theorem Component.derive_recordLaw {sl : SlotConfig} (hpresent : sl.present = true) (cfg : Configuration)
    (c : Component) : RecordLaw cfg sl (c.derive cfg sl) := by
  obtain ⟨hdyn, hwear, -, hurgency, hband⟩ := c.derive_fields cfg sl
  rw [RecordLaw, if_pos hpresent, hdyn]
  exact ⟨hwear, hurgency, hband⟩

/-- The record law of a slot does not read slip and mark, nor the flag of a present slot. -/
theorem recordLaw_of_same {cfg : Configuration} {sl : SlotConfig} {c d : Component} (hrecord : RecordLaw cfg sl c)
    (hpresent : sl.present = true → d.dyn.account = c.dyn.account ∧ d.wear = c.wear ∧ d.hours = c.hours ∧
      d.urgency = c.urgency ∧ d.band = c.band)
    (habsent : sl.present = false → d = { c with marked := d.marked }) : RecordLaw cfg sl d := by
  cases hp : sl.present with
  | true =>
    obtain ⟨haccount, hwear, hhours, hurgency, hband⟩ := hpresent hp
    simp only [RecordLaw, hp, if_true] at hrecord ⊢
    rwa [haccount, hwear, hhours, hurgency, hband]
  | false =>
    simp only [RecordLaw, hp, Bool.false_eq_true, if_false] at hrecord ⊢
    have hd := habsent hp
    rw [hrecord] at hd
    exact hd

theorem recordLaw_setFlag {cfg : Configuration} {sl : SlotConfig} {c : Component} (hrecord : RecordLaw cfg sl c)
    (hpresent : sl.present = true) (flag : Bool) : RecordLaw cfg sl { c with openOrder := flag } :=
  recordLaw_of_same hrecord (fun _ => ⟨rfl, rfl, rfl, rfl, rfl⟩) fun habsent => nomatch hpresent.symm.trans habsent

/-! ### The table law through a move -/

/-- A table whose records agree in all that the law reads meets it. -/
theorem TableLaw.of_same {s t : State} (hs : TableLaw s) (hnode : t.node = s.node) (hcfg : t.cfg = s.cfg)
    (hpending : t.forecast.pending = s.forecast.pending) (hlength : t.comps.length = s.comps.length)
    (hpresent : ∀ i, (t.comp i).dyn.account = (s.comp i).dyn.account ∧ (t.comp i).wear = (s.comp i).wear ∧
      (t.comp i).hours = (s.comp i).hours ∧ (t.comp i).urgency = (s.comp i).urgency ∧ (t.comp i).band = (s.comp i).band)
    (habsent : ∀ i, i < s.comps.length → (s.cfg.slot i).present = false →
      RecordLaw s.cfg (s.cfg.slot i) (s.comp i) → t.comp i = { s.comp i with marked := (t.comp i).marked }) :
    TableLaw t := by
  rw [tableLaw_iff] at hs ⊢
  rw [hnode, hcfg, hpending, hlength]
  intro hop
  obtain ⟨hrecords, hfold⟩ := hs hop
  refine ⟨fun i hslots hcomps => ?_, hfold.trans (nodeForecast_congr _ hlength fun i => ?_).symm⟩
  · have hrecord := hrecords i hslots hcomps
    exact recordLaw_of_same hrecord (fun _ => hpresent i) fun hp => habsent i hcomps hp hrecord
  · obtain ⟨-, -, hhours, hurgency, -⟩ := hpresent i
    exact ⟨hurgency, hhours⟩

/-- A reworked table meets the law where the work on one present record keeps the record law. -/
theorem TableLaw.setComps_mapSlots {s : State} {f : SlotConfig → Component → Component} (hs : TableLaw s)
    (hf : ∀ sl c, sl.present = true → RecordLaw s.cfg sl c → RecordLaw s.cfg sl (f sl c)) :
    TableLaw (s.setComps (mapSlots f s.cfg.slots s.comps)) := by
  rw [tableLaw_iff] at hs ⊢
  intro hop
  obtain ⟨hrecords, -⟩ := hs hop
  refine ⟨fun i hslots hcomps => ?_, rfl⟩
  have hrecord := hrecords i hslots (mapSlots_length f s.cfg.slots s.comps ▸ hcomps)
  have hcomp := mapSlots_comp f s i
  change RecordLaw s.cfg (s.cfg.slot i) ((mapSlots f s.cfg.slots s.comps).getD i .zero)
  rw [hcomp]
  split
  next h => exact hf _ _ h.1 hrecord
  next => exact hrecord

theorem TableLaw.replace {s : State} (hs : TableLaw s) {slot : Nat} (hpresent : (s.cfg.slot slot).present = true) :
    TableLaw (s.setComps (s.comps.set slot ((s.comp slot).replaced s.cfg (s.cfg.slot slot)))) := by
  rw [tableLaw_iff] at hs ⊢
  intro hop
  obtain ⟨hrecords, -⟩ := hs hop
  refine ⟨fun i hslots hcomps => ?_, rfl⟩
  have hcomp := set_comp s slot ((s.comp slot).replaced s.cfg (s.cfg.slot slot)) i
  change RecordLaw s.cfg (s.cfg.slot i) ((s.comps.set slot _).getD i .zero)
  rw [hcomp]
  split
  next h => rw [h.1]; exact Component.derive_recordLaw hpresent _ _
  next => exact hrecords i hslots (by simpa using hcomps)

theorem Component.openOrder_of_absent {cfg : Configuration} {sl : SlotConfig} {c : Component}
    (hrecord : RecordLaw cfg sl c) (habsent : sl.present = false) : c.openOrder = false := by
  simp only [RecordLaw, habsent, Bool.false_eq_true, if_false] at hrecord
  rw [hrecord]
  rfl

/-! ### The table at a start -/

@[simp] theorem loadComponents_length (slots : List SlotConfig) (rs : List (Found DynRecord)) :
    (loadComponents slots rs).length = min slots.length rs.length := by
  fun_induction loadComponents slots rs with
  | case1 sl slots r rs ih => simp [ih, Nat.succ_min_succ]
  | case2 slots rs hne =>
    cases slots with
    | nil => simp
    | cons sl slots =>
      cases rs with
      | nil => simp
      | cons r rs => exact absurd rfl (hne sl slots r rs rfl)

theorem loadComponents_getD (slots : List SlotConfig) (rs : List (Found DynRecord)) (i : Nat) (hslots : i < slots.length)
    (hrs : i < rs.length) :
    (loadComponents slots rs).getD i .zero = loadComponent (slots.getD i .blank) (rs.getD i .absent) := by
  induction slots generalizing rs i with
  | nil => simp at hslots
  | cons sl slots ih =>
    cases rs with
    | nil => simp at hrs
    | cons r rs =>
      cases i with
      | zero => rfl
      | succ i => exact ih rs i (by simpa using hslots) (by simpa using hrs)

@[simp] theorem deriveFlags_length (o : OrderList) (first : Nat) (slots : List SlotConfig) (comps : List Component) :
    (deriveFlags o first slots comps).length = min slots.length comps.length := by
  induction slots generalizing first comps with
  | nil => simp [deriveFlags]
  | cons sl slots ih =>
    cases comps with
    | nil => simp [deriveFlags]
    | cons c comps => simp [deriveFlags, ih, Nat.succ_min_succ]

theorem deriveFlags_getD (o : OrderList) (first : Nat) (slots : List SlotConfig) (comps : List Component) (i : Nat)
    (hslots : i < slots.length) (hcomps : i < comps.length) :
    (deriveFlags o first slots comps).getD i .zero =
      { comps.getD i .zero with openOrder := (slots.getD i .blank).present && o.opensSlot (first + i) } := by
  induction slots generalizing first comps i with
  | nil => simp at hslots
  | cons sl slots ih =>
    cases comps with
    | nil => simp at hcomps
    | cons c comps =>
      cases i with
      | zero => rfl
      | succ i =>
        refine (ih (first + 1) comps i (by simpa using hslots) (by simpa using hcomps)).trans ?_
        simp [Nat.add_assoc, Nat.add_comm 1 i]

/-- A slot that is not present is loaded as zero, but for its mark (R54). -/
theorem loadComponent_absent {sl : SlotConfig} (habsent : sl.present = false) (r : Found DynRecord) :
    loadComponent sl r = { Component.zero with marked := (loadComponent sl r).marked } := by
  cases r <;> simp [loadComponent, habsent]; rfl

/-- The table at entry to OPERATING, slot by slot: derived fields and flag worked out of the record as loaded. -/
theorem State.enterOperating_comp (s : State) (levels : BitVec 24) (i : Nat) (hslots : i < s.cfg.slots.length)
    (hcomps : i < s.comps.length) :
    (s.enterOperating levels).comp i =
      { (if (s.cfg.slot i).present = true then (s.comp i).derive s.cfg (s.cfg.slot i) else s.comp i) with
        openOrder := (s.cfg.slot i).present && s.orders.opensSlot i } := by
  have hmap := mapSlots_getD (Component.derive s.cfg) s.cfg.slots s.comps i hcomps
  have hflags := deriveFlags_getD s.orders 0 s.cfg.slots (mapSlots (Component.derive s.cfg) s.cfg.slots s.comps) i
    hslots (by simpa using hcomps)
  rw [hmap, Nat.zero_add] at hflags
  exact hflags

theorem State.enterOperating_comps_length (s : State) (levels : BitVec 24) :
    (s.enterOperating levels).comps.length = min s.cfg.slots.length s.comps.length := by
  refine (deriveFlags_length _ _ _ _).trans ?_
  rw [mapSlots_length]

theorem tableLaw_startWith (s : State) (records : Store) (found : FoundStore) (levels : BitVec 24) :
    TableLaw (s.startWith records found levels) := by
  unfold State.startWith State.leaveStarting
  split
  · exact (nomatch ·)
  split
  · rw [tableLaw_iff]
    refine fun _ => ⟨fun i hslots hcomps => ?_, rfl⟩
    rw [State.enterOperating_comps_length, lt_min_iff] at hcomps
    have hloaded : i < found.components.length := by
      have h := hcomps.2
      change i < (loadComponents _ _).length at h
      rw [loadComponents_length, lt_min_iff] at h
      exact h.2
    rw [State.enterOperating_comp _ _ _ hcomps.1 hcomps.2]
    have hload : (s.cleared.load records found).comp i = loadComponent _ _ :=
      loadComponents_getD found.loadConfig.slots found.components i hcomps.1 hloaded
    change RecordLaw found.loadConfig (found.loadConfig.slot i)
      { (if (found.loadConfig.slot i).present = true then _ else _ : Component) with
        openOrder := (found.loadConfig.slot i).present && _ }
    cases hp : (found.loadConfig.slot i).present with
    | true =>
      exact recordLaw_setFlag (Component.derive_recordLaw hp found.loadConfig _) hp _
    | false =>
      have habsent := loadComponent_absent (sl := found.loadConfig.slots.getD i .blank) hp
        (found.components.getD i .absent)
      simp only [RecordLaw, hp, Bool.false_eq_true, if_false, Bool.false_and]
      rw [hload, habsent]
      rfl
  · exact (nomatch ·)

theorem tableLaw_kept : Kept TableLaw where
  settle := id
  tickAlways := id
  restarted _ _ _ _ _ _ _ _ := (nomatch ·)
  started {u} damage levels _ _ := tableLaw_startWith u _ _ levels
  move {C u v} hmove hu := by
    cases hmove with
    | credit increment _ _ => exact hu.setComps_mapSlots fun sl c => Component.credit_recordLaw _
    | hour _ => exact hu.setComps_mapSlots fun sl c => Component.hour_recordLaw
    | replace slot _ _ hpresent => exact hu.replace hpresent
    | measure counts encoder _ =>
      refine hu.of_same rfl rfl rfl (mapSlots_length _ _ _) (fun i => ?_) fun i _ hp _ => ?_
      · rw [show (u.putComps _).comp i = _ from mapSlots_comp (Component.measure u.cfg counts encoder) u i]
        split
        · rw [Component.measure_eq]
          exact ⟨rfl, rfl, rfl, rfl, rfl⟩
        · exact ⟨rfl, rfl, rfl, rfl, rfl⟩
      · rw [show (u.putComps _).comp i = _ from mapSlots_comp (Component.measure u.cfg counts encoder) u i,
          if_neg fun h => Bool.false_ne_true (hp.symm.trans h.1)]
    | appendDue =>
      refine hu.of_same ?_ ?_ ?_ (u.appendOrders_comps_length _) (fun i => ?_) fun i _ hp _ => ?_
      · rw [State.appendDue_frame]
      · rw [State.appendDue_frame]
      · rw [State.appendDue_frame]
      · rw [State.appendDue_comp]
        exact ⟨rfl, rfl, rfl, rfl, rfl⟩
      · have hnot : i ∉ u.dueOrder := fun h => nomatch hp.symm.trans (State.mem_dueOrder h).2.2.1
        rw [State.appendDue_comp, decide_eq_false hnot, Bool.or_false]
    | closeHead outcome _ _ _ =>
      refine hu.of_same rfl rfl rfl List.length_set (fun i => ?_) fun i _ hp hrecord => ?_
      · rw [State.closeHead_comp]
        exact ⟨rfl, rfl, rfl, rfl, rfl⟩
      · rw [State.closeHead_comp, Component.openOrder_of_absent hrecord hp, ite_self,
          ← Component.openOrder_of_absent hrecord hp]
    | writeRecord name _ =>
      refine hu.of_same (u.writeRecord_node name) (u.writeRecord_cfg name) (by rw [u.writeRecord_forecast name])
        (u.writeRecord_comps_length name) (fun i => ?_) fun i _ _ _ => ?_
      · rw [State.writeRecord_comp]
        exact ⟨rfl, rfl, rfl, rfl, rfl⟩
      · rw [State.writeRecord_comp]
    | commit hnode _ => exact fun hop => nomatch hnode.symm.trans hop
    | openWindow => rw [State.openWindow_frame]; exact hu
    | hearTaken => rw [State.hearTaken_frame]; exact hu
    | retryTaken => rw [State.retryTaken_frame]; exact hu
    | offer => rw [State.offer_frame]; exact hu
    | takeQuery => rw [State.takeQuery_frame]; exact hu
    | beginSending => rw [State.beginSending_frame]; exact hu
    | lose => rw [State.takeBack_frame]; exact hu
    | abort => rw [State.takeBack_frame]; exact hu
    | _ => exact hu

/-- Settles O55: each move keeps the law record by record, and a start works every record out. -/
theorem stepsKeepTheComponentTable : Obligations.StepsKeepTheComponentTable := by
  unfold Obligations.StepsKeepTheComponentTable
  intro s t hs hstep
  exact tableLaw_kept.step hstep hs

/-! ### Accounts -/

/-- What a move does to the account of a slot (R56, R57, R74): nothing, a credit that raises it, or a REPLACE that
starts it again. -/
theorem Move.account {C : Nat → Prop} {s t : State} (hmove : Move C s t) (hnode : s.node = .operating) (i : Nat) :
    (t.comp i).dyn.account = (s.comp i).dyn.account ∨
      ((∀ slot, ¬C slot) ∧ (s.comp i).dyn.account ≤ (t.comp i).dyn.account ∧
        (t.comp i).dyn.account ≤ max (s.comp i).dyn.account (capOf (s.cfg.slot i).life)) ∨
      (C i ∧ (t.comp i).dyn.account = 0) := by
  cases hmove with
  | credit increment _ hnone =>
    refine .inr (.inl ⟨hnone, ?_⟩)
    rw [show State.comp (s.setComps _) i = _ from mapSlots_comp _ s i]
    split
    · exact ⟨Component.credit_account_ge _ _ _ _,
        (Component.credit_account _ _ _ _).trans_le (max_le_max_left _ (min_le_left _ _))⟩
    · exact ⟨le_rfl, le_max_left _ _⟩
  | hour _ =>
    left
    rw [show State.comp (s.setComps _) i = _ from mapSlots_comp _ s i]
    split <;> rfl
  | measure counts encoder _ =>
    left
    rw [show (s.putComps _).comp i = _ from mapSlots_comp (Component.measure s.cfg counts encoder) s i]
    split
    · rw [Component.measure_eq]
    · rfl
  | replace slot _ hslot _ =>
    rw [show State.comp (s.setComps _) i = _ from set_comp s slot _ i]
    split
    next h => exact .inr (.inr ⟨h.1 ▸ hslot, rfl⟩)
    next => exact .inl rfl
  | appendDue => exact .inl (by rw [State.appendDue_comp])
  | closeHead outcome _ _ _ => exact .inl (by rw [State.closeHead_comp])
  | writeRecord name _ => exact .inl (by rw [State.writeRecord_comp])
  | commit hcommissioning _ => exact nomatch hnode.symm.trans hcommissioning
  | openWindow => rw [State.openWindow_frame]; exact .inl rfl
  | hearTaken => rw [State.hearTaken_frame]; exact .inl rfl
  | retryTaken => rw [State.retryTaken_frame]; exact .inl rfl
  | offer => rw [State.offer_frame]; exact .inl rfl
  | takeQuery => rw [State.takeQuery_frame]; exact .inl rfl
  | beginSending => rw [State.beginSending_frame]; exact .inl rfl
  | lose => rw [State.takeBack_frame]; exact .inl rfl
  | abort => rw [State.takeBack_frame]; exact .inl rfl
  | _ => exact .inl rfl

theorem Moves.account {C : Nat → Prop} {s t : State} (hmoves : Moves C s t) (hnode : s.node = .operating) (i : Nat) :
    (t.comp i).dyn.account = (s.comp i).dyn.account ∨
      ((∀ slot, ¬C slot) ∧ (s.comp i).dyn.account ≤ (t.comp i).dyn.account ∧
        (t.comp i).dyn.account ≤ max (s.comp i).dyn.account (capOf (s.cfg.slot i).life)) ∨
      (C i ∧ (t.comp i).dyn.account = 0) := by
  induction hmoves with
  | refl => exact .inl rfl
  | tail hfirst hlast ih =>
    have hlast' := hlast.account ((Moves.leaves hfirst).2.1.trans hnode) i
    rw [Moves.leaves_cfg hfirst hnode] at hlast'
    rcases ih with hsame | ⟨hnone, hle, htop⟩ | ⟨hslot, hzero⟩
    · rwa [hsame] at hlast'
    · rcases hlast' with hsame | ⟨-, hle', htop'⟩ | ⟨hslot, -⟩
      · exact .inr (.inl ⟨hnone, hsame ▸ hle, hsame ▸ htop⟩)
      · exact .inr (.inl ⟨hnone, hle.trans hle', htop'.trans (max_le htop (le_max_right _ _))⟩)
      · exact absurd hslot (hnone i)
    · rcases hlast' with hsame | ⟨hnone, -⟩ | hagain
      · exact .inr (.inr ⟨hslot, hsame.trans hzero⟩)
      · exact absurd hslot (hnone i)
      · exact .inr (.inr hagain)

/-- A run of moves in OPERATING passes no cap (R56). -/
theorem Moves.capped {C : Nat → Prop} {s t : State} (hmoves : Moves C s t) (hnode : s.node = .operating)
    (hs : Capped s) : Capped t := by
  rw [capped_iff] at hs ⊢
  rw [hmoves.leaves_cfg hnode]
  intro i hslots hpresent
  have hcap := hs i hslots hpresent
  rcases hmoves.account hnode i with hsame | ⟨-, -, htop⟩ | ⟨-, hzero⟩
  · exact hsame.trans_le hcap
  · exact htop.trans (max_le hcap le_rfl)
  · exact hzero.trans_le (Nat.zero_le _)

/-- A step from OPERATING to OPERATING is a run of moves, as far as the table can tell. -/
theorem step_account {s t : State} (hs : s.node = .operating) (ht : t.node = .operating) (hstep : step s = .next t) :
    ∃ u v C, Moves C u v ∧ u.node = .operating ∧ u.cfg = s.cfg ∧ u.comps = s.comps ∧ t.cfg = v.cfg ∧
      t.comps = v.comps ∧ ∀ slot, C slot → ∃ rest, s.pending = .replace slot :: rest ∨
        (s.pending = .confirm :: rest ∧ (s.orders.at s.orders.head).slot = slot) := by
  rcases step_effect hstep with ⟨command, rest, hpending, heffect⟩ | ⟨-, hcalm | hcalm⟩
  · refine ⟨s.withPending rest, ?_⟩
    have hcause : ∀ slot, Replaces command (s.withPending rest) slot → ∃ rest, s.pending = .replace slot :: rest ∨
        (s.pending = .confirm :: rest ∧ (s.orders.at s.orders.head).slot = slot) := by
      rintro slot (rfl | ⟨rfl, hslot⟩)
      · exact ⟨rest, .inl hpending⟩
      · exact ⟨rest, .inr ⟨hpending, hslot⟩⟩
    cases heffect with
    | none => exact ⟨_, _, .refl, hs, rfl, rfl, rfl, rfl, hcause⟩
    | taken work => exact ⟨_, _, .refl, hs, rfl, rfl, rfl, rfl, hcause⟩
    | moved hmoves => exact ⟨_, _, hmoves, hs, rfl, rfl, rfl, rfl, hcause⟩
    | restarted => exact nomatch ht
    | started damage levels hnode => exact nomatch hs.symm.trans hnode
  · exact ⟨s, t, _, hcalm, hs, rfl, rfl, rfl, rfl, fun _ h => h.elim⟩
  · exact ⟨s.tickAlways, t, _, hcalm, hs, rfl, rfl, rfl, rfl, fun _ h => h.elim⟩

/-- Settles O28: of all moves only a REPLACE lowers an account, and a credit stops at the cap. -/
theorem accountsRiseUntilReplaced : Obligations.AccountsRiseUntilReplaced := by
  unfold Obligations.AccountsRiseUntilReplaced
  intro s t hs ht hstep
  obtain ⟨u, v, C, hmoves, hnode, hcfg, hcomps, hcfg', hcomps', hcause⟩ := step_account hs ht hstep
  refine ⟨fun i hlower => ?_, fun hcapped => ?_⟩
  · rw [State.comp, State.comp, hcomps', ← hcomps] at hlower
    rw [State.comp, hcomps']
    rcases hmoves.account hnode i with hsame | ⟨-, hle, -⟩ | ⟨hslot, hzero⟩
    · exact absurd hsame hlower.ne
    · exact absurd hle hlower.not_ge
    · exact ⟨hcause i hslot, hzero⟩
  · have hu : Capped u := by rwa [Capped, hcfg, hcomps]
    have hv := hmoves.capped hnode hu
    rwa [Capped, hcfg', hcomps']

end Sys2Proof.Machine
end

section
/-! SUPPORT. The ranges: the laws of configuration and widths block by block, and what each operation does to them. -/

namespace Sys2Proof.Machine

open Sys2Proof

/-! ### The laws block by block -/

/-- The widths of the Line Input Unit (R8, R9, R11, R12). -/
structure LineUnit.Wide (l : LineUnit) : Prop where
  counts : l.counts.length = Config.lines ∧ ∀ n ∈ l.counts, n ≤ Config.countTop
  sampleMs : l.sampleMs < Config.samplePeriodMs
  refreshMs : l.refreshMs < Config.refreshMs
  runMs : l.runMs < Config.runHourMs
  runHours : l.runHours ≤ Config.runHoursTop

/-- The widths of a component record (R53). -/
abbrev Component.Wide (c : Component) : Prop := c.dyn.InRange ∧ c.urgency ≤ 255 ∧ c.hours ≤ Config.hoursTop

/-- The widths of the component table. -/
abbrev TableWide (comps : List Component) : Prop := comps.length = Config.slots ∧ ∀ c ∈ comps, c.Wide

/-- The widths of the order list (R163, R164). -/
structure OrderList.Wide (o : OrderList) : Prop where
  ring : o.ring.length = Config.slots ∧ ∀ r ∈ o.ring, r.InRange
  marks : o.marks.length = Config.slots
  head : o.head < Config.slots
  tail : o.tail < Config.slots

/-- The law of widths by blocks. -/
structure Widths (s : State) : Prop where
  lines : s.lines.Wide
  windowCount : s.planner.windowCount < 65536
  commissionCount : s.account.commissionCount ≤ Config.countTop
  stagedItems : s.account.stagedItems ≤ 255
  lastCommit : s.account.lastCommit ≤ 13
  dropped : s.queue.dropped ≤ Config.countTop
  lampPhase : s.out.lampPhase < Config.lampPeriodMs
  comps : TableWide s.comps
  orders : s.orders.Wide
  records : s.account.records.InRange

theorem widthLaw_iff (s : State) : WidthLaw s ↔ Widths s := by
  constructor
  · rintro ⟨hcounts, hsample, hrefresh, hrunMs, hrunHours, hwindow, hcommission, hstaged, hlast, hdropped, hphase,
      hcomps, hring, hmarks, hhead, htail, hrecords⟩
    exact ⟨⟨hcounts, hsample, hrefresh, hrunMs, hrunHours⟩, hwindow, hcommission, hstaged, hlast, hdropped, hphase,
      hcomps, ⟨hring, hmarks, hhead, htail⟩, hrecords⟩
  · rintro ⟨⟨hcounts, hsample, hrefresh, hrunMs, hrunHours⟩, hwindow, hcommission, hstaged, hlast, hdropped, hphase,
      hcomps, ⟨hring, hmarks, hhead, htail⟩, hrecords⟩
    exact ⟨hcounts, hsample, hrefresh, hrunMs, hrunHours, hwindow, hcommission, hstaged, hlast, hdropped, hphase,
      hcomps, hring, hmarks, hhead, htail, hrecords⟩

/-- The configuration law by blocks. -/
structure Configs (s : State) : Prop where
  cfg : s.cfg.InRange
  staging : s.account.staging.InRange
  stored : s.account.records.config.meets Config.configurationBytes Configuration.committable = true
  writes : (s.account.writes.all fun w => w.lawful) = true
  passed : s.cfgGood = true → commitResult s.cfg = 1
  operates : s.node = .operating → s.cfgGood = true
  commissions : s.account.writes ≠ [] → s.node = .commissioning

theorem configLaw_iff (s : State) : ConfigLaw s ↔ Configs s := by
  constructor
  · rintro ⟨hranges, hstored, hwrites, hpassed, hoperates, hcommissions⟩
    exact ⟨hranges _ (by simp), hranges _ (by simp), hstored, hwrites, hpassed, hoperates, hcommissions⟩
  · rintro ⟨hcfg, hstaging, hstored, hwrites, hpassed, hoperates, hcommissions⟩
    refine ⟨fun c hc => ?_, hstored, hwrites, hpassed, hoperates, hcommissions⟩
    rcases List.mem_pair.1 hc with rfl | rfl
    · exact hcfg
    · exact hstaging

/-! ### The dropped count and the window count -/

theorem State.offer_dropped {s : State} (hs : s.queue.dropped ≤ Config.countTop) (n : Notice) :
    (s.offer n).queue.dropped ≤ Config.countTop := by
  refine State.offer_cases (P := fun u => u.queue.dropped ≤ Config.countTop) (fun _ => ?discards) (fun _ _ _ => hs)
    (fun _ _ _ _ => hs) (fun _ _ _ => hs) (fun last _ _ _ => ?evicts) (fun _ => ?drops)
  case discards => unfold State.discard; split <;> exact hs
  case evicts => rw [State.tellLost_eq]; exact satAdd_le _ _ _
  case drops => rw [State.tellLost_eq]; exact satAdd_le _ _ _

theorem State.offer_windowCount (s : State) (n : Notice) :
    (s.offer n).planner.windowCount = s.planner.windowCount := by
  rw [(s.offer_planner n).1]

theorem State.decideWindow_widths {s : State} (hdropped : s.queue.dropped ≤ Config.countTop) :
    s.decideWindow.queue.dropped ≤ Config.countTop ∧
      s.decideWindow.planner.windowCount = s.planner.windowCount := by
  unfold State.decideWindow
  split
  · exact ⟨hdropped, rfl⟩
  split
  · refine ⟨State.offer_dropped ?_ _, State.offer_windowCount _ _⟩
    exact hdropped
  · exact ⟨hdropped, rfl⟩

theorem State.openWindow_widths {s : State} (hdropped : s.queue.dropped ≤ Config.countTop) :
    s.openWindow.queue.dropped ≤ Config.countTop ∧
      s.openWindow.planner.windowCount = (s.planner.windowCount + 1) % 65536 := by
  unfold State.openWindow
  dsimp only
  split
  · obtain ⟨hd, hw⟩ := State.decideWindow_widths
      (State.offer_dropped (s := s.countWindow.copyAnnounced) hdropped withdrawNotice)
    exact ⟨hd, hw.trans (State.offer_windowCount _ _)⟩
  · exact State.decideWindow_widths hdropped

theorem State.retryTaken_widths {s : State} (hdropped : s.queue.dropped ≤ Config.countTop) :
    s.retryTaken.queue.dropped ≤ Config.countTop ∧ s.retryTaken.planner.windowCount = s.planner.windowCount := by
  unfold State.retryTaken
  split
  · split
    · refine ⟨State.offer_dropped ?_ _, State.offer_windowCount _ _⟩
      exact hdropped
    · exact ⟨hdropped, rfl⟩
  · exact ⟨hdropped, rfl⟩

theorem State.hearTaken_widths (s : State) (source : Addr) :
    (s.hearTaken source).queue.dropped = s.queue.dropped ∧
      (s.hearTaken source).planner.windowCount = s.planner.windowCount := by
  unfold State.hearTaken
  split
  case h_2 => split <;> exact ⟨rfl, rfl⟩
  all_goals exact ⟨rfl, rfl⟩

theorem State.takeBack_dropped (s : State) (n : Notice) : (s.takeBack n).queue.dropped = s.queue.dropped := by
  unfold State.takeBack
  split
  · rfl
  split
  · split <;> rfl
  · rfl

theorem State.beginSending_dropped (s : State) : s.beginSending.queue.dropped = s.queue.dropped := by
  unfold State.beginSending
  split <;> rfl

/-! ### The component table -/

theorem hoursOf_of_worn {life : Nat} {d : DynRecord} (hworn : lifeTicks life ≤ d.account) : hoursOf life d = 0 := by
  rw [hoursOf, if_pos hworn]

theorem hoursOf_of_no_forecast {life : Nat} {d : DynRecord} (hlasts : ¬lifeTicks life ≤ d.account)
    (hnone : d.rateValid = false ∨ d.rate = 0) : hoursOf life d = Config.hoursTop := by
  rw [hoursOf, if_neg hlasts, if_pos hnone]

theorem hoursOf_of_forecast {life : Nat} {d : DynRecord} (hlasts : ¬lifeTicks life ≤ d.account)
    (hrate : ¬(d.rateValid = false ∨ d.rate = 0)) :
    hoursOf life d = min Config.hoursTop ((lifeTicks life - d.account) / d.rate) := by
  rw [hoursOf, if_neg hlasts, if_neg hrate]

theorem hoursOf_le (life : Nat) (d : DynRecord) : hoursOf life d ≤ Config.hoursTop := by
  by_cases hworn : lifeTicks life ≤ d.account
  · rw [hoursOf_of_worn hworn]; exact Nat.zero_le _
  by_cases hnone : d.rateValid = false ∨ d.rate = 0
  · rw [hoursOf_of_no_forecast hworn hnone]
  · rw [hoursOf_of_forecast hworn hnone]; exact Nat.min_le_left _ _

theorem Component.zero_wide : Component.zero.Wide := by decide

theorem Component.derive_wide {cfg : Configuration} {sl : SlotConfig} {c : Component} (hdyn : c.dyn.InRange) :
    (c.derive cfg sl).Wide := by
  obtain ⟨heq, -, hhours, hurgency, -⟩ := c.derive_fields cfg sl
  rw [Component.Wide, heq, hurgency, hhours]
  exact ⟨hdyn, urgencyOf_le _ _ _ _, hoursOf_le _ _⟩

theorem Component.credit_wide {cfg : Configuration} {sl : SlotConfig} {c : Component} (increment : Nat)
    (hc : c.Wide) : (c.credit cfg sl increment).Wide := by
  obtain ⟨⟨hslip, hrate, hdelta, hservice⟩, hurgency, hhours⟩ := hc
  unfold Component.credit
  dsimp only
  split
  · exact ⟨⟨hslip, hrate, hdelta, hservice⟩, hurgency, hhours⟩
  · refine ⟨⟨hslip, hrate, satAdd_le _ _ _, hservice⟩, ?_, hhours⟩
    split
    · exact hurgency
    · exact urgencyOf_le _ _ _ _

theorem nextRate_le {d : DynRecord} (hd : d.InRange) : nextRate d ≤ Config.deltaTop := by
  obtain ⟨-, hrate, hdelta, -⟩ := hd
  unfold nextRate
  split
  · exact Nat.div_le_of_le_mul (by omega)
  · exact hdelta

theorem Component.hour_wide {cfg : Configuration} {sl : SlotConfig} {c : Component} (hc : c.Wide) :
    (c.hour cfg sl).Wide := by
  obtain ⟨hdyn, hurgency, hhours⟩ := hc
  have hrate := nextRate_le hdyn
  obtain ⟨hslip, -, -, hservice⟩ := hdyn
  refine ⟨⟨hslip, hrate, Nat.zero_le _, hservice⟩, ?_, hoursOf_le _ _⟩
  unfold Component.hour
  dsimp only
  split
  · exact hurgency
  · exact urgencyOf_le _ _ _ _

theorem slipSample_le (expected tach : Nat) : slipSample expected tach ≤ 1000 := by
  unfold slipSample
  split
  · exact Nat.zero_le _
  · exact Nat.div_le_of_le_mul (by rw [Nat.mul_comm expected]; exact Nat.mul_le_mul_left _ (Nat.sub_le _ _))

theorem nextSlip_le {slip : Nat} (hslip : slip ≤ 1000) (encoder ratio tach : Nat) :
    nextSlip slip encoder ratio tach ≤ 1000 := by
  unfold nextSlip
  split
  · exact hslip
  · have hsample := slipSample_le (expectedCount encoder ratio) tach
    exact Nat.div_le_of_le_mul (by omega)

theorem Component.measure_wide {cfg : Configuration} {counts : List Nat} {encoder : Nat} {sl : SlotConfig}
    {c : Component} (hc : c.Wide) : (c.measure cfg counts encoder sl).Wide := by
  obtain ⟨⟨hslip, hrest⟩, hderived⟩ := hc
  unfold Component.measure
  split
  · exact ⟨⟨hslip, hrest⟩, hderived⟩
  split
  · dsimp only
    split
    · exact ⟨⟨hslip, hrest⟩, hderived⟩
    · exact ⟨⟨nextSlip_le hslip _ _ _, hrest⟩, hderived⟩
  · exact ⟨⟨hslip, hrest⟩, hderived⟩

theorem Component.replaced_wide {cfg : Configuration} {sl : SlotConfig} {c : Component} (hc : c.Wide) :
    (c.replaced cfg sl).Wide := by
  obtain ⟨⟨-, hrate, -, -⟩, -⟩ := hc
  exact Component.derive_wide ⟨Nat.zero_le _, hrate, Nat.zero_le _, satAdd_le _ _ _⟩

theorem mem_mapSlots {f : SlotConfig → Component → Component} {slots : List SlotConfig} {comps : List Component}
    {c : Component} (hc : c ∈ mapSlots f slots comps) : ∃ d ∈ comps, c = d ∨ ∃ sl, c = f sl d := by
  fun_induction mapSlots f slots comps with
  | case1 sl slots d comps ih =>
    rcases List.mem_cons.1 hc with rfl | hc
    · refine ⟨d, List.mem_cons_self, ?_⟩
      split
      · exact .inr ⟨sl, rfl⟩
      · exact .inl rfl
    · obtain ⟨d', hd', h⟩ := ih hc
      exact ⟨d', List.mem_cons_of_mem _ hd', h⟩
  | case2 comps => exact ⟨c, hc, .inl rfl⟩
  | case3 => exact absurd hc List.not_mem_nil

theorem TableWide.mapSlots {f : SlotConfig → Component → Component} {comps : List Component} (hcomps : TableWide comps)
    (hf : ∀ sl (c : Component), c.Wide → (f sl c).Wide) (slots : List SlotConfig) :
    TableWide (mapSlots f slots comps) := by
  refine ⟨(mapSlots_length _ _ _).trans hcomps.1, fun c hc => ?_⟩
  obtain ⟨d, hd, rfl | ⟨sl, rfl⟩⟩ := mem_mapSlots hc
  · exact hcomps.2 _ hd
  · exact hf sl d (hcomps.2 d hd)

theorem TableWide.set {comps : List Component} (hcomps : TableWide comps) (slot : Nat) {c : Component} (hc : c.Wide) :
    TableWide (comps.set slot c) :=
  ⟨List.length_set.trans hcomps.1, mem_set_of_forall hcomps.2 hc⟩

theorem TableWide.getD {comps : List Component} (hcomps : TableWide comps) (slot : Nat) :
    (comps.getD slot .zero).Wide := by
  rw [List.getD_eq_getElem?_getD]
  cases hslot : comps[slot]? with
  | none => exact Component.zero_wide
  | some c => exact hcomps.2 c (List.mem_of_getElem? hslot)

/-! ### The order list -/

theorem OrderRecord.empty_inRange : OrderRecord.empty.InRange := by decide

theorem OrderList.Wide.at {o : OrderList} (ho : o.Wide) (position : Nat) : (o.at position).InRange := by
  rw [OrderList.at, List.getD_eq_getElem?_getD]
  cases hposition : o.ring[position]? with
  | none => exact OrderRecord.empty_inRange
  | some r => exact ho.ring.2 r (List.mem_of_getElem? hposition)

theorem Widths.closeHead {s : State} (hs : Widths s) (outcome : OrderStatus) : Widths (s.closeHead outcome) := by
  obtain ⟨hslot, hurgency, hissue, -⟩ := hs.orders.at s.orders.head
  exact
    { hs with
      comps := hs.comps.set _ (hs.comps.getD _)
      orders :=
        { ring := ⟨List.length_set.trans hs.orders.ring.1,
            mem_set_of_forall hs.orders.ring.2 ⟨hslot, hurgency, hissue, hs.windowCount⟩⟩
          marks := List.length_set.trans hs.orders.marks, head := nextPosition_lt _, tail := hs.orders.tail } }

theorem Widths.appendOrder {s : State} (hs : Widths s) {slot : Nat} (hslot : slot < Config.slots) :
    Widths (s.appendOrder slot) := by
  obtain ⟨-, hurgency, -⟩ := hs.comps.getD slot
  exact
    { hs with
      comps := hs.comps.set _ (hs.comps.getD _)
      orders :=
        { ring := ⟨List.length_set.trans hs.orders.ring.1,
            mem_set_of_forall hs.orders.ring.2 ⟨hslot, hurgency, hs.windowCount, Nat.zero_lt_succ _⟩⟩
          marks := List.length_set.trans hs.orders.marks, head := hs.orders.head, tail := nextPosition_lt _ } }

theorem Widths.appendOrders {s : State} (hs : Widths s) {l : List Nat} (hl : ∀ slot ∈ l, slot < Config.slots) :
    Widths (s.appendOrders l) := by
  induction l generalizing s with
  | nil => exact hs
  | cons slot l ih =>
    obtain ⟨hslot, hl⟩ := List.forall_mem_cons.1 hl
    exact ih (hs.appendOrder hslot) hl

/-! ### The store -/

theorem Widths.nodeRecord {s : State} (hs : Widths s) : s.nodeRecord.InRange := by
  refine ⟨hs.lines.runHours, hs.lines.runMs, hs.windowCount, ?_, ?_, hs.commissionCount⟩
  · change (if _ then _ else _ : Nat) < _
    split
    · decide
    · exact hs.orders.head
  · change (if _ then _ else _ : Nat) < _
    split
    · decide
    · exact hs.orders.tail

theorem Widths.writeRecord {s : State} (hs : Widths s) (name : RecordName) : Widths (s.writeRecord name) := by
  cases name with
  | component slot =>
    exact
      { hs with
        comps := hs.comps.set _ (hs.comps.getD _)
        records := Store.write_inRange hs.records (w := .component slot _) (decide_eq_true (hs.comps.getD slot).1) }
  | order position =>
    exact
      { hs with
        orders := { hs.orders with marks := List.length_set.trans hs.orders.marks }
        records := Store.write_inRange hs.records (w := .order position _) (decide_eq_true (hs.orders.at position)) }
  | node =>
    exact { hs with records := Store.write_inRange hs.records (w := .node _) (decide_eq_true hs.nodeRecord) }

theorem writeRecord_config (s : State) (name : RecordName) :
    (s.writeRecord name).account.records.config = s.account.records.config := by
  cases name <;> rfl

theorem Store.writeAll_config {st : Store} {ws : List StoreWrite}
    (hst : st.config.meets Config.configurationBytes Configuration.committable = true)
    (hws : (ws.all fun w => w.lawful) = true) :
    (st.writeAll ws).config.meets Config.configurationBytes Configuration.committable = true := by
  induction ws generalizing st with
  | nil => exact hst
  | cons w ws ih =>
    obtain ⟨hw, hws⟩ := Bool.and_eq_true_iff.1 hws
    refine ih ?_ hws
    cases w with
    | config c => exact sealed_meets hw
    | _ => exact hst

theorem all_take {α : Type} {p : α → Bool} {l : List α} (hl : l.all p = true) (count : Nat) :
    (l.take count).all p = true :=
  List.all_eq_true.2 fun a ha => List.all_eq_true.1 hl a (List.mem_of_mem_take ha)

/-! ### COMMIT -/

theorem DynRecord.zero_inRange : DynRecord.zero.InRange := by decide

theorem commitDyn_inRange {old new : SlotConfig} {d : DynRecord} (hd : d.InRange) : (commitDyn old new d).InRange := by
  unfold commitDyn
  split
  · exact DynRecord.zero_inRange
  split
  · exact ⟨Nat.zero_le _, hd.2⟩
  · exact hd

theorem commitComps_wide {comps : List Component} (olds news : List SlotConfig) (hcomps : ∀ c ∈ comps, c.Wide) :
    ∀ c ∈ commitComps olds news comps, c.Wide := by
  fun_induction commitComps olds news comps with
  | case1 old olds new news c comps ih =>
    obtain ⟨hc, hcomps⟩ := List.forall_mem_cons.1 hcomps
    exact List.forall_mem_cons.2 ⟨⟨commitDyn_inRange hc.1, hc.2⟩, ih hcomps⟩
  | case2 => exact hcomps

@[simp] theorem commitComps_length (olds news : List SlotConfig) (comps : List Component) :
    (commitComps olds news comps).length = comps.length := by
  fun_induction commitComps olds news comps with
  | case1 old olds new news c comps ih => simp [ih]
  | case2 => rfl

theorem commitSlotWrites_lawful (first : Nat) (olds news : List SlotConfig) {comps : List Component}
    (hcomps : ∀ c ∈ comps, c.Wide) :
    ((commitSlotWrites first olds news comps).all fun w => w.lawful) = true := by
  fun_induction commitSlotWrites first olds news comps with
  | case1 first old olds new news c comps hwrites ih =>
    obtain ⟨hc, hcomps⟩ := List.forall_mem_cons.1 hcomps
    exact Bool.and_eq_true_iff.2 ⟨decide_eq_true (commitDyn_inRange hc.1), ih hcomps⟩
  | case2 first old olds new news c comps hkeeps ih => exact ih (List.forall_mem_cons.1 hcomps).2
  | case3 => rfl

theorem emptyOrderWrites_lawful : (emptyOrderWrites.all fun w => w.lawful) = true := by
  refine List.all_eq_true.2 fun w hw => ?_
  obtain ⟨i, -, rfl⟩ := List.mem_map.1 hw
  exact decide_eq_true OrderRecord.empty_inRange

theorem commitWrites_lawful {s : State} (hconfig : Configs s) (hwidth : Widths s)
    (hpasses : commitResult s.account.staging = 1) : (s.commitWrites.all fun w => w.lawful) = true := by
  have hnode : Widths s.committed :=
    { hwidth with
      commissionCount := satAdd_le _ _ _, lastCommit := (by decide : 1 ≤ 13)
      comps := ⟨(commitComps_length _ _ _).trans hwidth.comps.1, commitComps_wide _ _ hwidth.comps.2⟩ }
  simp only [State.commitWrites, List.all_append, Bool.and_eq_true]
  refine ⟨⟨⟨?config, commitSlotWrites_lawful _ _ _ hwidth.comps.2⟩, ?orders⟩, ?node⟩
  case config =>
    simp only [List.all_cons, List.all_nil, Bool.and_true, StoreWrite.lawful, Configuration.committable,
      Bool.and_eq_true]
    exact ⟨decide_eq_true hconfig.staging, decide_eq_true hpasses⟩
  case orders =>
    split
    · exact emptyOrderWrites_lawful
    · rfl
  case node =>
    simp only [List.all_cons, List.all_nil, Bool.and_true, StoreWrite.lawful]
    exact decide_eq_true hnode.nodeRecord

end Sys2Proof.Machine
end

section
/-! SUPPORT. The ranges at a start and through a step. -/

namespace Sys2Proof.Machine

open Sys2Proof

/-! ### What a start finds -/

/-- A record found good meets the test that the store keeps. -/
theorem Stored.test_of_found {α : Type} {bytes : α → List Byte} {test : α → Bool} {r : Stored α} {contents : α}
    (hr : r.meets bytes test = true) (hfound : r.found bytes = .good contents) : test contents = true := by
  cases r with
  | absent => cases hfound
  | written held check =>
    simp only [Stored.found] at hfound
    split at hfound
    next hcheck =>
      cases hfound
      simpa [Stored.meets, hcheck] using hr
    next => cases hfound

theorem Store.damage_config {st : Store} (d : StoreDamage)
    (hst : st.config.meets Config.configurationBytes Configuration.committable = true) :
    (st.damage d).config.meets Config.configurationBytes Configuration.committable = true := by
  unfold Store.damage
  split
  next hlawful =>
    obtain ⟨record, check⟩ := d
    cases record with
    | config c =>
      simp only [Bool.or_eq_true, Bool.not_eq_true'] at hlawful
      exact Stored.spoil_meets _ (hlawful.imp id fun h => by simpa [StoreDamage.unseen] using h)
    | _ => exact hst
  next => exact hst

theorem Store.damaged_config {st : Store} (ds : List StoreDamage)
    (hst : st.config.meets Config.configurationBytes Configuration.committable = true) :
    (st.damaged ds).config.meets Config.configurationBytes Configuration.committable = true := by
  induction ds generalizing st with
  | nil => exact hst
  | cons d ds ih => exact ih (Store.damage_config d hst)

/-- What a start finds in a store within its widths: contents within theirs. -/
structure FoundStore.Wide (found : FoundStore) : Prop where
  config : ∀ c, found.config = .good c → c.InRange ∧ commitResult c = 1
  components : found.components.length = Config.slots ∧ ∀ r ∈ found.components, ∀ d, r = .good d → d.InRange
  orders : found.orders.length = Config.slots ∧ ∀ r ∈ found.orders, ∀ o, r = .good o → o.InRange
  node : ∀ n, found.node = .good n → n.InRange

theorem Store.found_wide {st : Store} (hst : st.InRange)
    (hconfig : st.config.meets Config.configurationBytes Configuration.committable = true) : st.found.Wide := by
  obtain ⟨⟨hcomponents, hdyn⟩, ⟨horders, horder⟩, hnode⟩ := hst
  refine ⟨fun c hc => ?_, ⟨(List.length_map _).trans hcomponents, fun r hr d hd => ?_⟩,
    ⟨(List.length_map _).trans horders, fun r hr o ho => ?_⟩, fun n hn => ?_⟩
  · have hcommittable := Stored.test_of_found hconfig hc
    simp only [Configuration.committable, Bool.and_eq_true, decide_eq_true_eq] at hcommittable
    exact hcommittable
  · obtain ⟨stored, hstored, rfl⟩ := List.mem_map.1 hr
    exact of_decide_eq_true (Stored.test_of_found (test := fun d => decide d.InRange) (hdyn stored hstored) hd)
  · obtain ⟨stored, hstored, rfl⟩ := List.mem_map.1 hr
    exact of_decide_eq_true (Stored.test_of_found (test := fun o => decide o.InRange) (horder stored hstored) ho)
  · exact of_decide_eq_true (Stored.test_of_found (test := fun n => decide n.InRange) hnode hn)

/-! ### What a start loads -/

theorem NodeRecord.zero_inRange : NodeRecord.zero.InRange := by decide

theorem Configuration.blank_inRange : Configuration.blank.InRange := by decide

section Load

variable {found : FoundStore}

theorem FoundStore.Wide.loadNode (hfound : found.Wide) : found.loadNode.InRange := by
  unfold FoundStore.loadNode
  split
  next n hn => exact hfound.node n hn
  next => exact NodeRecord.zero_inRange
  next => split <;> exact NodeRecord.zero_inRange

theorem FoundStore.Wide.loadConfig (hfound : found.Wide) : found.loadConfig.InRange := by
  unfold FoundStore.loadConfig
  split
  next c hc => exact (hfound.config c hc).1
  next => exact Configuration.blank_inRange
  next => exact Configuration.blank_inRange

theorem FoundStore.Wide.passed (hfound : found.Wide) (hgood : found.configGood = true) :
    commitResult found.loadConfig = 1 := by
  cases hconfig : found.config with
  | good c =>
    simp only [FoundStore.loadConfig, hconfig]
    exact (hfound.config c hconfig).2
  | absent => simp [FoundStore.configGood, hconfig] at hgood
  | bad => simp [FoundStore.configGood, hconfig] at hgood

theorem loadComponent_dyn_inRange {sl : SlotConfig} {r : Found DynRecord} (hr : ∀ d, r = .good d → d.InRange) :
    (loadComponent sl r).dyn.InRange := by
  cases r with
  | absent => exact DynRecord.zero_inRange
  | bad =>
    simp only [loadComponent]
    split <;> exact DynRecord.zero_inRange
  | good d =>
    simp only [loadComponent]
    split
    · exact hr d rfl
    · exact DynRecord.zero_inRange

theorem loadComponent_derived (sl : SlotConfig) (r : Found DynRecord) :
    (loadComponent sl r).urgency = 0 ∧ (loadComponent sl r).hours = 0 ∧ (loadComponent sl r).openOrder = false := by
  cases r with
  | absent => exact ⟨rfl, rfl, rfl⟩
  | bad => exact ⟨rfl, rfl, rfl⟩
  | good d =>
    simp only [loadComponent]
    split <;> exact ⟨rfl, rfl, rfl⟩

theorem mem_loadComponents {slots : List SlotConfig} {rs : List (Found DynRecord)} {c : Component}
    (hc : c ∈ loadComponents slots rs) : ∃ sl, ∃ r ∈ rs, c = loadComponent sl r := by
  fun_induction loadComponents slots rs with
  | case1 sl slots r rs ih =>
    rcases List.mem_cons.1 hc with rfl | hc
    · exact ⟨sl, r, List.mem_cons_self, rfl⟩
    · obtain ⟨sl', r', hr', h⟩ := ih hc
      exact ⟨sl', r', List.mem_cons_of_mem _ hr', h⟩
  | case2 => exact absurd hc List.not_mem_nil

theorem FoundStore.Wide.loadComponents (hfound : found.Wide) :
    TableWide (loadComponents found.loadConfig.slots found.components) := by
  refine ⟨?_, fun c hc => ?_⟩
  · obtain ⟨-, -, -, -, -, -, -, -, -, -, -, -, -, hslots, -⟩ := hfound.loadConfig
    rw [loadComponents_length, hslots, hfound.components.1, min_self]
  · obtain ⟨sl, r, hr, rfl⟩ := mem_loadComponents hc
    obtain ⟨hurgency, hhours, -⟩ := loadComponent_derived sl r
    rw [Component.Wide, hurgency, hhours]
    exact ⟨loadComponent_dyn_inRange (hfound.components.2 r hr), Nat.zero_le _, Nat.zero_le _⟩

theorem loadOrder_inRange {r : Found OrderRecord} (hr : ∀ o, r = .good o → o.InRange) : (loadOrder r).InRange := by
  cases r with
  | good o => exact hr o rfl
  | absent => exact OrderRecord.empty_inRange
  | bad => exact OrderRecord.empty_inRange

theorem FoundStore.Wide.loadOrders (hfound : found.Wide) : found.loadOrders.Wide := by
  unfold FoundStore.loadOrders
  split
  · refine ⟨⟨List.length_replicate, fun r hr => ?_⟩, List.length_replicate, by decide, by decide⟩
    rw [List.eq_of_mem_replicate hr]
    exact OrderRecord.empty_inRange
  · obtain ⟨-, -, -, hhead, htail, -⟩ := hfound.loadNode
    refine ⟨⟨(List.length_map _).trans hfound.orders.1, fun r hr => ?_⟩, List.length_replicate, hhead, htail⟩
    obtain ⟨r', hr', rfl⟩ := List.mem_map.1 hr
    exact loadOrder_inRange (hfound.orders.2 r' hr')

end Load

/-! ### The laws at a restart and at the end of a start -/

theorem reset_widths : Widths State.reset := (widthLaw_iff _).1 (by decide)

theorem reset_configs : Configs State.reset := (configLaw_iff _).1 (by decide)

theorem Widths.restarted {s : State} (hconfig : Configs s) (hs : Widths s) (power : Bool) (resetLine : LevelLine)
    (straps : Straps) (pins : Pins) (mode : BusMode) (begun : Nat) :
    Widths (s.restarted power resetLine straps pins mode begun) :=
  { reset_widths with
    records := Store.writeAll_inRange hs.records (all_take hconfig.writes begun) }

theorem Configs.restarted {s : State} (hs : Configs s) (power : Bool) (resetLine : LevelLine) (straps : Straps)
    (pins : Pins) (mode : BusMode) (begun : Nat) : Configs (s.restarted power resetLine straps pins mode begun) :=
  { reset_configs with
    stored := Store.writeAll_config hs.stored (all_take hs.writes begun) }

theorem Component.wide_setFlag {c : Component} (hc : c.Wide) (flag : Bool) :
    Component.Wide { c with openOrder := flag } := hc

theorem TableWide.enterOperating {s : State} (hcomps : TableWide s.comps) (hslots : s.cfg.slots.length = Config.slots)
    (levels : BitVec 24) : TableWide (s.enterOperating levels).comps := by
  have hlength : (s.enterOperating levels).comps.length = Config.slots := by
    rw [State.enterOperating_comps_length, hslots, hcomps.1, min_self]
  refine ⟨hlength, fun c hc => ?_⟩
  obtain ⟨i, hi, rfl⟩ := List.mem_iff_getElem.1 hc
  rw [← List.getD_eq_getElem _ Component.zero]
  rw [hlength] at hi
  have hcomp := hcomps.getD i
  refine (congrArg Component.Wide (s.enterOperating_comp levels i (hslots ▸ hi) (hcomps.1 ▸ hi))).mpr ?_
  refine Component.wide_setFlag ?_ _
  split
  · exact Component.derive_wide hcomp.1
  · exact hcomp

/-- The blocks as loaded are within their widths. -/
theorem Widths.load {s : State} {found : FoundStore} {records : Store} (hfound : found.Wide)
    (hrecords : records.InRange) : Widths (s.cleared.load records found) := by
  obtain ⟨hrunHours, hrunMs, hwindow, -, -, hcommission⟩ := hfound.loadNode
  exact
    { reset_widths with
      lines := { reset_widths.lines with runMs := hrunMs, runHours := hrunHours }
      windowCount := hwindow, commissionCount := hcommission, comps := hfound.loadComponents
      orders := hfound.loadOrders, records := hrecords }

theorem Widths.leaveStarting {s : State} (hs : Widths s) (hslots : s.cfg.slots.length = Config.slots)
    (levels : BitVec 24) : Widths (s.leaveStarting levels) := by
  unfold State.leaveStarting
  split
  · exact { hs with }
  split
  · exact
      { hs with
        lines :=
          { counts := reset_widths.lines.counts, sampleMs := reset_widths.lines.sampleMs
            refreshMs := reset_widths.lines.refreshMs, runMs := hs.lines.runMs, runHours := hs.lines.runHours }
        comps := hs.comps.enterOperating hslots levels }
  · exact { hs with }

theorem Configs.load {s : State} {found : FoundStore} {records : Store} (hfound : found.Wide)
    (hrecords : records.config.meets Config.configurationBytes Configuration.committable = true) :
    Configs (s.cleared.load records found) :=
  { reset_configs with
    cfg := hfound.loadConfig, stored := hrecords, passed := hfound.passed, operates := (nomatch ·) }

theorem Configs.leaveStarting {s : State} (hs : Configs s) (hwrites : s.account.writes = []) (levels : BitVec 24) :
    Configs (s.leaveStarting levels) := by
  unfold State.leaveStarting
  split
  · exact { hs with staging := hs.cfg, operates := (nomatch ·), commissions := fun _ => rfl }
  split
  next hgood => exact { hs with operates := fun _ => hgood, commissions := fun h => absurd hwrites h }
  next => exact { hs with operates := (nomatch ·), commissions := fun h => absurd hwrites h }

/-! ### The laws through a move -/

theorem Configs.move {C : Nat → Prop} {s t : State} (hmove : Move C s t) (hs : Configs s) (hwidth : Widths s) :
    Configs t := by
  cases hmove with
  | writeRecord name _ =>
    rw [State.writeRecord_frame]
    have haccount : (s.writeRecord name).account.staging = s.account.staging ∧
        (s.writeRecord name).account.writes = s.account.writes ∧
        (s.writeRecord name).account.records.config = s.account.records.config := by
      cases name <;> exact ⟨rfl, rfl, rfl⟩
    obtain ⟨hstaging, hwrites, hconfig⟩ := haccount
    exact
      { hs with
        staging := hstaging ▸ hs.staging, stored := hconfig ▸ hs.stored, writes := hwrites ▸ hs.writes
        commissions := hwrites ▸ hs.commissions }
  | stage staging hnode hkept => exact { hs with staging := hkept hs.staging }
  | commit hnode hpasses =>
    exact
      { hs with
        cfg := hs.staging, writes := commitWrites_lawful hs hwidth hpasses, passed := fun _ => hpasses
        operates := fun _ => rfl, commissions := fun _ => hnode }
  | finishWrites =>
    exact
      { hs with
        stored := Store.writeAll_config hs.stored hs.writes, writes := rfl
        commissions := fun h => absurd rfl h }
  | appendDue => rw [State.appendDue_frame]; exact { hs with }
  | openWindow => rw [State.openWindow_frame]; exact { hs with }
  | hearTaken => rw [State.hearTaken_frame]; exact { hs with }
  | retryTaken => rw [State.retryTaken_frame]; exact { hs with }
  | offer => rw [State.offer_frame]; exact { hs with }
  | takeQuery => rw [State.takeQuery_frame]; exact { hs with }
  | beginSending => rw [State.beginSending_frame]; exact { hs with }
  | lose => rw [State.takeBack_frame]; exact { hs with }
  | abort => rw [State.takeBack_frame]; exact { hs with }
  | _ => exact { hs with }

theorem LineUnit.Wide.tick {l : LineUnit} (hl : l.Wide) (levels : Levels) : (l.tick levels).Wide := by
  obtain ⟨hrun, hms, hhours⟩ := LineUnit.run_frame hl.runMs hl.runHours
  have hcounts : l.run.counts = l.counts := by rw [hrun]
  exact
    { counts := hcounts ▸ hl.counts, sampleMs := Nat.mod_lt _ (by decide), refreshMs := Nat.mod_lt _ (by decide)
      runMs := hms, runHours := hhours }

theorem Widths.move {C : Nat → Prop} {s t : State} (hmove : Move C s t) (hconfig : Configs s) (hs : Widths s) :
    Widths t := by
  cases hmove with
  | counts counts _ hkept => exact { hs with lines := { hs.lines with counts := hkept hs.lines.counts } }
  | levels => exact { hs with lines := { hs.lines with } }
  | turnMotor => exact { hs with lines := { hs.lines with } }
  | closeWindow => exact { hs with lines := { hs.lines with } }
  | lineTick => exact { hs with lines := hs.lines.tick _ }
  | endHour => exact { hs with lines := { hs.lines with runMs := (by decide : 0 < Config.runHourMs), runHours := satAdd_le _ _ _ } }
  | credit increment _ _ =>
    exact { hs with comps := hs.comps.mapSlots (fun _ _ => Component.credit_wide _) _ }
  | hour _ => exact { hs with comps := hs.comps.mapSlots (fun _ _ => Component.hour_wide) _ }
  | measure counts encoder _ => exact { hs with comps := hs.comps.mapSlots (fun _ _ => Component.measure_wide) _ }
  | replace slot _ _ _ =>
    exact { hs with comps := hs.comps.set _ (Component.replaced_wide (hs.comps.getD slot)) }
  | appendDue => exact hs.appendOrders fun slot hslot => hs.comps.1 ▸ (State.mem_dueOrder hslot).2.1
  | closeHead outcome _ _ _ => exact hs.closeHead outcome
  | writeRecord name _ => exact hs.writeRecord name
  | openWindow =>
    obtain ⟨hdropped, hwindow⟩ := State.openWindow_widths hs.dropped
    rw [State.openWindow_frame]
    exact { hs with windowCount := hwindow ▸ Nat.mod_lt _ (by decide), dropped := hdropped }
  | hearTaken source _ =>
    obtain ⟨hdropped, hwindow⟩ := s.hearTaken_widths source
    rw [State.hearTaken_frame]
    exact { hs with windowCount := hwindow ▸ hs.windowCount, dropped := hdropped ▸ hs.dropped }
  | retryTaken _ =>
    obtain ⟨hdropped, hwindow⟩ := State.retryTaken_widths hs.dropped
    rw [State.retryTaken_frame]
    exact { hs with windowCount := hwindow ▸ hs.windowCount, dropped := hdropped }
  | offer n _ _ _ =>
    rw [State.offer_frame]
    exact { hs with windowCount := s.offer_windowCount n ▸ hs.windowCount, dropped := State.offer_dropped hs.dropped n }
  | takeQuery kind querier arg _ _ _ =>
    rw [State.takeQuery_frame]
    refine { hs with windowCount := ?_, dropped := ?_ }
    · exact (State.offer_windowCount _ _).trans_lt hs.windowCount
    · refine State.offer_dropped ?_ _
      exact hs.dropped
  | beginSending _ =>
    rw [State.beginSending_frame]
    exact { hs with dropped := s.beginSending_dropped ▸ hs.dropped }
  | lose n _ =>
    rw [State.takeBack_frame]
    exact { hs with dropped := (State.takeBack_dropped _ n).trans_le hs.dropped }
  | abort n _ =>
    rw [State.takeBack_frame]
    exact { hs with dropped := (State.takeBack_dropped _ n).trans_le hs.dropped }
  | enterSilenced _ _ =>
    refine { hs with windowCount := ?_ }
    change (if _ then _ else _ : Planner).windowCount < 65536
    split <;> exact hs.windowCount
  | stage staging _ _ => exact { hs with stagedItems := satAdd_le _ _ _ }
  | commit _ _ =>
    exact
      { hs with
        commissionCount := satAdd_le _ _ _, lastCommit := (by decide : 1 ≤ 13)
        comps := ⟨(commitComps_length _ _ _).trans hs.comps.1, commitComps_wide _ _ hs.comps.2⟩ }
  | recordCommit result _ hresult => exact { hs with lastCommit := hresult }
  | finishWrites => exact { hs with records := Store.writeAll_inRange hs.records hconfig.writes }
  | _ => exact { hs with }

theorem ranges_kept : Kept fun s => Configs s ∧ Widths s where
  move hmove hu := ⟨hu.1.move hmove hu.2, hu.2.move hmove hu.1⟩
  settle {u} hu := by
    refine ⟨{ hu.1 with }, { hu.2 with lampPhase := ?_ }⟩
    change (if _ then _ else _ : Nat) < _
    split
    · exact hu.2.lampPhase
    · decide
  restarted _ _ _ _ _ _ _ hu := ⟨hu.1.restarted _ _ _ _ _ _, hu.2.restarted hu.1 _ _ _ _ _ _⟩
  started {u} damage levels _ hu := by
    have hconfig := Store.damaged_config damage hu.1.stored
    have hrecords := Store.damaged_inRange damage hu.2.records
    have hfound := Store.found_wide hrecords hconfig
    have hloaded : Configs (u.cleared.load _ _) := Configs.load hfound hconfig
    obtain ⟨-, -, -, -, -, -, -, -, -, -, -, -, -, hslots, -⟩ := hloaded.cfg
    exact ⟨hloaded.leaveStarting rfl levels, (Widths.load hfound hrecords).leaveStarting hslots levels⟩
  tickAlways hu := ⟨{ hu.1 with }, { hu.2 with lampPhase := Nat.mod_lt _ (by decide) }⟩

/-- Settles O53: the ranges block by block through every move, and what a start loads is what the store keeps. -/
theorem stepsKeepEveryRange : Obligations.StepsKeepEveryRange := by
  unfold Obligations.StepsKeepEveryRange
  intro s t hconfig hwidth hstep
  rw [configLaw_iff, widthLaw_iff] at *
  exact ranges_kept.step hstep ⟨hconfig, hwidth⟩

end Sys2Proof.Machine
end

section
/-! SUPPORT. The laws of the Service Planner through a step. -/

namespace Sys2Proof.Machine

open Sys2Proof

/-! ### The claim view -/

/-- A view that is bounded, ranked and of distinct, usable addresses of live claims (R138 to R143). -/
structure LawfulView (usable : Addr → Bool) (view : List ClaimEntry) : Prop where
  room : view.length ≤ Config.viewPlaces
  ranked : Ranked view
  distinct : (view.map fun e => e.address).Nodup
  entries : ∀ e ∈ view,
    usable e.address = true ∧ Config.dueUrgency ≤ e.urgency ∧ e.urgency ≤ 255 ∧ e.age ≤ Config.claimAgeMs

theorem viewRemove_eq_self_iff (view : List ClaimEntry) (source : Addr) :
    viewRemove view source = view ↔ ∀ e ∈ view, e.address ≠ source := by
  simp [viewRemove]

theorem viewClaim_of_room {view : List ClaimEntry} {e : ClaimEntry}
    (hroom : viewRemove view e.address ≠ view ∨ view.length < Config.viewPlaces) :
    viewClaim view e = viewInsert e (viewRemove view e.address) := by
  refine if_pos ?_
  rw [Bool.or_eq_true, List.any_eq_true, decide_eq_true_eq]
  refine hroom.imp_left fun hne => ?_
  by_contra hnone
  exact hne ((viewRemove_eq_self_iff _ _).2 fun x hx haddr => hnone ⟨x, hx, by simpa using haddr⟩)

theorem viewClaim_of_full {view : List ClaimEntry} {e last : ClaimEntry} (hfull : Config.viewPlaces ≤ view.length)
    (hnew : viewRemove view e.address = view) (hlast : view.getLast? = some last) :
    viewClaim view e = if e.before last then viewInsert e view.dropLast else view := by
  have hnone : ¬((view.any fun x => x.address == e.address) || decide (view.length < Config.viewPlaces)) = true := by
    simp only [Bool.or_eq_true, List.any_eq_true, decide_eq_true_eq, not_or, not_exists, not_and]
    exact ⟨fun x hx haddr => (viewRemove_eq_self_iff _ _).1 hnew x hx (by simpa using haddr), Nat.not_lt.2 hfull⟩
  unfold viewClaim
  rw [if_neg hnone, hlast]

theorem LawfulView.sublist {usable : Addr → Bool} {view part : List ClaimEntry} (hview : LawfulView usable view)
    (hpart : part.Sublist view) : LawfulView usable part where
  room := hpart.length_le.trans hview.room
  ranked := hview.ranked.sublist hpart
  distinct := hview.distinct.sublist (hpart.map _)
  entries e he := hview.entries e (hpart.subset he)

theorem LawfulView.insert {usable : Addr → Bool} {view : List ClaimEntry} {e : ClaimEntry}
    (hview : LawfulView usable view) (hroom : view.length < Config.viewPlaces)
    (hnew : ∀ x ∈ view, x.address ≠ e.address)
    (he : usable e.address = true ∧ Config.dueUrgency ≤ e.urgency ∧ e.urgency ≤ 255 ∧ e.age ≤ Config.claimAgeMs) :
    LawfulView usable (viewInsert e view) where
  room := (viewInsert_length e view).trans_le hroom
  ranked := viewInsert_ranked hview.ranked hnew
  distinct := by
    rw [((viewInsert_perm e view).map _).nodup_iff, List.map_cons, List.nodup_cons]
    refine ⟨fun hmem => ?_, hview.distinct⟩
    obtain ⟨x, hx, haddr⟩ := List.mem_map.1 hmem
    exact hnew x hx haddr
  entries x hx := by
    rcases List.mem_cons.1 ((viewInsert_perm e view).subset hx) with rfl | hx
    · exact he
    · exact hview.entries x hx

theorem LawfulView.remove_length_lt {view : List ClaimEntry} {source : Addr} (hsome : viewRemove view source ≠ view) :
    (viewRemove view source).length < view.length := by
  refine lt_of_le_of_ne (List.length_filter_le _ _) fun hlength => hsome ?_
  exact List.filter_sublist.eq_of_length hlength

theorem LawfulView.claim {usable : Addr → Bool} {view : List ClaimEntry} {e : ClaimEntry}
    (hview : LawfulView usable view)
    (he : usable e.address = true ∧ Config.dueUrgency ≤ e.urgency ∧ e.urgency ≤ 255 ∧ e.age ≤ Config.claimAgeMs) :
    LawfulView usable (viewClaim view e) := by
  by_cases hroom : viewRemove view e.address ≠ view ∨ view.length < Config.viewPlaces
  · rw [viewClaim_of_room hroom]
    refine (hview.sublist List.filter_sublist).insert ?_ (fun x => viewRemove_address) he
    rcases hroom with hsome | hshort
    · exact (LawfulView.remove_length_lt hsome).trans_le hview.room
    · exact (List.length_filter_le _ _).trans_lt hshort
  · obtain ⟨hnew, hfull⟩ := not_or.1 hroom
    have hnew := not_not.1 hnew
    have hfull := Nat.not_lt.1 hfull
    have hne : view ≠ [] := List.ne_nil_of_length_pos (lt_of_lt_of_le (by decide) hfull)
    rw [viewClaim_of_full hfull hnew (List.getLast?_eq_some_getLast hne)]
    split
    · refine (hview.sublist (List.dropLast_sublist _)).insert ?_ (fun x hx => ?_) he
      · rw [List.length_dropLast]
        exact Nat.sub_one_lt_of_le (List.length_pos_of_ne_nil hne) hview.room
      · exact (viewRemove_eq_self_iff _ _).1 hnew x ((List.dropLast_sublist _).subset hx)
    · exact hview

theorem LawfulView.tick {usable : Addr → Bool} {view : List ClaimEntry} (hview : LawfulView usable view) :
    LawfulView usable (view.map fun e => { e with age := min Config.claimAgeMs (e.age + 1) }) where
  room := (List.length_map _).trans_le hview.room
  ranked := List.pairwise_map.2 hview.ranked
  distinct := by rw [List.map_map]; exact hview.distinct
  entries x hx := by
    obtain ⟨e, he, rfl⟩ := List.mem_map.1 hx
    obtain ⟨husable, hdue, htop, -⟩ := hview.entries e he
    exact ⟨husable, hdue, htop, Nat.min_le_left _ _⟩

/-- The standing does not look at ages (R145). -/
theorem standingOf_tick (k urgency : Nat) (addr : Addr) (view : List ClaimEntry) :
    standingOf k urgency addr (view.map fun e => { e with age := min Config.claimAgeMs (e.age + 1) }) =
      standingOf k urgency addr view := by
  unfold standingOf
  rw [List.filter_map, List.length_map]
  rfl

/-! ### The laws of the planner, by name -/

structure Plans (s : State) : Prop where
  view : LawfulView s.acceptsSource s.planner.view
  standing : s.planner.standing = standingOf s.cfg.k s.forecast.announced.urgency s.straps.addr s.planner.view
  places : s.planner.takenSet.length ≤ Config.takenPlaces
  distinct : s.planner.takenSet.Nodup
  closed : s.planner.window = .closed → s.planner.takenSet = []
  hold : s.planner.pendingHold.isSome = true ↔ s.planner.window = .pending
  contends : s.planner.window = .contending → s.planner.takenSet.length < s.cfg.k

theorem plannerLaw_iff (s : State) : PlannerLaw s ↔ Plans s := by
  constructor
  · rintro ⟨hroom, hranked, hdistinct, hentries, hstanding, hplaces, htaken, hclosed, hhold, hcontends⟩
    exact ⟨⟨hroom, hranked, hdistinct, hentries⟩, hstanding, hplaces, htaken, hclosed, hhold, hcontends⟩
  · rintro ⟨⟨hroom, hranked, hdistinct, hentries⟩, hstanding, hplaces, htaken, hclosed, hhold, hcontends⟩
    exact ⟨hroom, hranked, hdistinct, hentries, hstanding, hplaces, htaken, hclosed, hhold, hcontends⟩

/-- The window is one that only MAINT keeps open. -/
def WindowState.engaged (w : WindowState) : Prop := w = .contending ∨ w = .servicing ∨ w = .deferred ∨ w = .standby

/-! ### The planner of the operations that hand notices over -/

/-- What a handed notice can do to the planner: nothing but an owed TAKEN, and a deferral of a contending node. -/
structure Told (before after : Planner) : Prop where
  frame : after = { before with window := after.window, takenOwed := after.takenOwed }
  window : after.window = before.window ∨ (before.window = .contending ∧ after.window = .deferred)

theorem State.offer_told (s : State) (n : Notice) : Told s.planner (s.offer n).planner :=
  have ⟨hframe, hwindow, _⟩ := s.offer_planner n
  ⟨hframe, hwindow⟩

theorem Plans.told {s t : State} (hs : Plans s) (htold : Told s.planner t.planner) (hcfg : t.cfg = s.cfg)
    (hstraps : t.straps = s.straps) (hforecast : t.forecast = s.forecast) : Plans t := by
  obtain ⟨hframe, hwindow⟩ := htold
  obtain ⟨hview, hstanding, hplaces, hdistinct, hclosed, hhold, hcontends⟩ := hs
  have haccepts : t.acceptsSource = s.acceptsSource := by
    funext source
    rw [State.acceptsSource, State.acceptsSource, hstraps]
  refine ⟨haccepts ▸ hframe ▸ hview, ?_, hframe ▸ hplaces, hframe ▸ hdistinct, fun h => ?_, ?_, fun h => ?_⟩
  · rw [hframe, hcfg, hstraps, hforecast]
    exact hstanding
  · rcases hwindow with hsame | ⟨-, hdeferred⟩
    · rw [hframe]
      exact hclosed (hsame ▸ h)
    · rw [hdeferred] at h
      cases h
  · have hsame : t.planner.pendingHold = s.planner.pendingHold := by rw [hframe]
    rw [hsame, hhold]
    rcases hwindow with hwindow | ⟨hbefore, hafter⟩
    · rw [hwindow]
    · rw [hbefore, hafter]
      exact ⟨(nomatch ·), (nomatch ·)⟩
  · rcases hwindow with hsame | ⟨-, hdeferred⟩
    · rw [hframe, hcfg]
      exact hcontends (hsame ▸ h)
    · rw [hdeferred] at h
      cases h

theorem Told.engaged {before after : Planner} (htold : Told before after) (hafter : after.window.engaged) :
    before.window.engaged := by
  rcases htold.window with hsame | ⟨hcontending, -⟩
  · exact hsame ▸ hafter
  · exact .inl hcontending

theorem State.retryTaken_told (s : State) : Told s.planner s.retryTaken.planner := by
  unfold State.retryTaken
  split
  · split
    next values _ =>
      obtain ⟨hframe, hwindow, -⟩ :=
        State.offer_planner (s.setPlanner { s.planner with takenOwed := false }) (takenNotice values)
      exact ⟨hframe.trans rfl, hwindow⟩
    next => exact ⟨rfl, .inl rfl⟩
  · exact ⟨rfl, .inl rfl⟩

theorem State.enterSilenced_told (s : State) : Told s.planner s.enterSilenced.planner := by
  change Told s.planner (if _ then _ else _)
  split
  next h => exact ⟨rfl, .inr ⟨h.1, rfl⟩⟩
  next => exact ⟨rfl, .inl rfl⟩

theorem State.takeQuery_told (s : State) (kind : QueryKind) (querier : Addr) (arg : BitVec 5) :
    Told s.planner (s.takeQuery kind querier arg).planner :=
  State.offer_told { s with query := some { querier := querier, kind := kind, arg := arg } } _

/-! ### The opening of a window -/

/-- The planner of a window that has opened (R154, R155). -/
structure Opened (s : State) (p : Planner) : Prop where
  frame : p = { s.countWindow.copyAnnounced.planner with
    window := p.window, takenValues := p.takenValues, takenOwed := p.takenOwed }
  window : p.window.engaged
  contends : p.window = .contending → s.planner.takenSet.length < s.cfg.k

theorem State.decideWindow_opened {s u : State} (hplanner : u.planner = s.countWindow.copyAnnounced.planner)
    (hcfg : u.cfg = s.cfg) : Opened s u.decideWindow.planner := by
  unfold State.decideWindow
  split
  · exact ⟨by rw [← hplanner]; rfl, .inr (.inr (.inr rfl)), (nomatch ·)⟩
  split
  next hroom =>
    have hroom' : s.planner.takenSet.length < s.cfg.k := by rwa [hplanner, hcfg] at hroom
    dsimp only
    obtain ⟨hframe, hwindow⟩ := State.offer_told (u.setPlanner
      { u.planner with
        window := .contending
        takenValues := some { urgency := u.forecast.announced.urgency, dueCount := u.forecast.announced.dueCount, windowCount := u.planner.windowCount } })
      (takenNotice { urgency := u.forecast.announced.urgency, dueCount := u.forecast.announced.dueCount, windowCount := u.planner.windowCount })
    refine ⟨?_, ?_, fun _ => hroom'⟩
    · rw [← hplanner, hframe]
      rfl
    · rcases hwindow with hsame | ⟨-, hdeferred⟩
      · exact .inl hsame
      · exact .inr (.inr (.inl hdeferred))
  · exact ⟨by rw [← hplanner]; rfl, .inr (.inr (.inl rfl)), (nomatch ·)⟩

theorem State.openWindow_opened {s : State} (hwindow : s.planner.window ≠ .contending) :
    Opened s s.openWindow.planner := by
  unfold State.openWindow
  dsimp only
  split
  · exact State.decideWindow_opened (State.offer_planner_of_ne _ hwindow) (State.offer_cfg _ _)
  · exact State.decideWindow_opened rfl rfl

/-! ### Heard TAKENs -/

theorem State.hearTaken_planner (s : State) (source : Addr) :
    (s.hearTaken source).planner =
      if s.planner.window = .closed then
        { s.planner with takenSet := [source], window := .pending, pendingHold := some 0 }
      else if s.planner.window = .contending ∧ s.cfg.k ≤ (addTaken s.planner.takenSet source).length then
        { s.planner with takenSet := addTaken s.planner.takenSet source, window := .deferred, takenOwed := false }
      else { s.planner with takenSet := addTaken s.planner.takenSet source } := by
  unfold State.hearTaken
  cases hwindow : s.planner.window with
  | contending =>
    simp only [reduceCtorEq, if_false, true_and]
    split <;> rfl
  | _ => simp

/-! ### The laws through a move -/

theorem Plans.hearTaken {s : State} (hs : Plans s) (source : Addr) : Plans (s.hearTaken source) := by
  obtain ⟨hview, hstanding, hplaces, hdistinct, hclosed, hhold, hcontends⟩ := hs
  have hjoined := addTaken_length s.planner.takenSet source hplaces
  have hnodup := addTaken_nodup source hdistinct
  rw [State.hearTaken_frame, State.hearTaken_planner]
  split
  next hwindow => exact ⟨hview, hstanding, (by decide : 1 ≤ 8), List.nodup_singleton _, (nomatch ·), by simp, (nomatch ·)⟩
  split
  next hopen hfull =>
    refine ⟨hview, hstanding, hjoined, hnodup, (nomatch ·), ⟨fun h => ?_, (nomatch ·)⟩, (nomatch ·)⟩
    exact absurd ((hhold.1 h).symm.trans hfull.1) (nomatch ·)
  next hopen hroom =>
    exact ⟨hview, hstanding, hjoined, hnodup, fun h => absurd h hopen, hhold,
      fun h => Nat.lt_of_not_le fun hfull => hroom ⟨h, hfull⟩⟩

theorem Plans.setView {s : State} (hs : Plans s) {view : List ClaimEntry} (hview : LawfulView s.acceptsSource view) :
    Plans (s.setView view) := { hs with view := hview, standing := rfl }

theorem Plans.hearClaim {s : State} (hs : Plans s) {source : Addr} (haccepts : s.acceptsSource source = true)
    (urgency : Byte) : Plans (s.hearClaim source urgency) := by
  refine hs.setView ?_
  split
  next hdue => exact hs.view.claim ⟨haccepts, hdue, Nat.le_of_lt_succ urgency.isLt, Nat.zero_le _⟩
  next => exact hs.view.sublist List.filter_sublist

theorem Plans.openWindow {s : State} (hs : Plans s) (hwindow : s.planner.window ≠ .contending) :
    Plans s.openWindow := by
  obtain ⟨hframe, hengaged, hcontends⟩ := State.openWindow_opened hwindow
  rw [State.openWindow_frame]
  have hplanner : ∀ p, Opened s p → Plans { s with
      forecast := { s.forecast with announced := s.forecast.pending }
      planner := p, queue := s.openWindow.queue, query := s.openWindow.query
      account := { s.account with nodeMarked := true } } := by
    rintro p ⟨hframe, hengaged, hcontends⟩
    rw [hframe]
    refine ⟨hs.view, rfl, hs.places, hs.distinct, fun h => ?_, ⟨(nomatch ·), fun h => ?_⟩, hcontends⟩
    all_goals
      change p.window = _ at h
      rw [h] at hengaged
      simp [WindowState.engaged] at hengaged
  exact hplanner _ ⟨hframe, hengaged, hcontends⟩

/-- Outside OPERATING no window is open. -/
theorem QuietLaw.window {s : State} (hs : QuietLaw s) (hnode : s.node ≠ .operating) : s.planner.window = .closed := by
  obtain ⟨-, hplanner, -⟩ := hs hnode
  rw [hplanner]
  rfl

theorem QuietLaw.operating {s : State} (hs : QuietLaw s) (hwindow : s.planner.window ≠ .closed) :
    s.node = .operating := by
  by_contra hnode
  exact hwindow (hs.window hnode)

theorem Plans.move {C : Nat → Prop} {s t : State} (hmove : Move C s t) (hquiet : QuietLaw s) (hs : Plans s) :
    Plans t := by
  cases hmove with
  | plannerTick _ =>
    refine { hs with view := hs.view.tick, standing := hs.standing.trans (standingOf_tick _ _ _ _).symm, hold := ?_ }
    change (s.planner.pendingHold.map _).isSome = true ↔ _
    rw [Option.isSome_map]
    exact hs.hold
  | copyAnnounced _ => exact { hs with standing := rfl }
  | hearClaim source urgency hhears => exact hs.hearClaim ((s.plannerHears_iff source).1 hhears).2 urgency
  | filterView keep _ => exact hs.setView (hs.view.sublist List.filter_sublist)
  | openWindow _ hwindow _ => exact hs.openWindow (by rcases hwindow with h | h <;> rw [h] <;> exact (nomatch ·))
  | closeWindow _ =>
    exact { hs with places := Nat.zero_le _, distinct := .nil, closed := fun _ => rfl
                    hold := ⟨(nomatch ·), (nomatch ·)⟩, contends := (nomatch ·) }
  | endPending _ _ =>
    exact { hs with places := Nat.zero_le _, distinct := .nil, closed := fun _ => rfl
                    hold := ⟨(nomatch ·), (nomatch ·)⟩, contends := (nomatch ·) }
  | hearTaken source _ => exact hs.hearTaken source
  | retryTaken _ =>
    rw [State.retryTaken_frame]
    exact hs.told s.retryTaken_told rfl rfl rfl
  | offer n _ _ _ =>
    rw [State.offer_frame]
    exact hs.told (s.offer_told n) rfl rfl rfl
  | takeQuery kind querier arg _ _ _ =>
    rw [State.takeQuery_frame]
    exact hs.told (s.takeQuery_told kind querier arg) rfl rfl rfl
  | enterSilenced _ _ => exact hs.told s.enterSilenced_told rfl rfl rfl
  | completeTaken n _ _ _ hwindow =>
    exact
      { hs with
        places := addTaken_length _ _ hs.places, distinct := addTaken_nodup _ hs.distinct, closed := (nomatch ·)
        hold := ⟨fun h => absurd ((hs.hold.1 h).symm.trans hwindow) (nomatch ·), (nomatch ·)⟩
        contends := (nomatch ·) }
  | commit hnode _ =>
    have hcalm : s.node ≠ .operating := by rw [hnode]; exact (nomatch ·)
    obtain ⟨-, hplanner, hforecast, -⟩ := hquiet hcalm
    have hclosed := hquiet.window hcalm
    refine { hs with standing := ?_, contends := fun h => absurd (hclosed.symm.trans h) (nomatch ·) }
    change s.planner.standing = standingOf _ s.forecast.announced.urgency _ _
    rw [hplanner, hforecast]
    rfl
  | appendDue => rw [State.appendDue_frame]; exact { hs with }
  | writeRecord => rw [State.writeRecord_frame]; exact { hs with }
  | beginSending => rw [State.beginSending_frame]; exact { hs with }
  | lose => rw [State.takeBack_frame]; exact { hs with }
  | abort => rw [State.takeBack_frame]; exact { hs with }
  | _ => exact { hs with }

theorem QuietLaw.move {C : Nat → Prop} {s t : State} (hmove : Move C s t) (hs : QuietLaw s) : QuietLaw t := by
  intro hcalm
  obtain ⟨-, hnode, -⟩ := hmove.leaves
  rw [hnode] at hcalm
  have hclosed := hs.window hcalm
  have hnot : s.planner.window ≠ .contending := by rw [hclosed]; exact (nomatch ·)
  have hquiet := hs hcalm
  cases hmove with
  | counts _ h => exact absurd h hcalm
  | lineTick _ h => exact absurd h hcalm
  | endHour h => exact absurd h hcalm
  | track _ h => exact absurd h hcalm
  | turnMotor _ h => exact absurd h hcalm
  | credit _ h => exact absurd h hcalm
  | hour h => exact absurd h hcalm
  | replace _ h => exact absurd h hcalm
  | writeRecord _ h => exact absurd h hcalm
  | setDue _ h => exact absurd h hcalm
  | plannerTick h => exact absurd h hcalm
  | copyAnnounced h => exact absurd h hcalm
  | hearClaim source _ h => exact absurd ((s.plannerHears_iff source).1 h).1 hcalm
  | filterView _ h => exact absurd h hcalm
  | openWindow h => exact absurd h hcalm
  | closeWindow h => exact absurd h hcalm
  | endPending h => exact absurd h hcalm
  | hearTaken source h => exact absurd ((s.plannerHears_iff source).1 h).1 hcalm
  | retryTaken h => exact absurd h hcalm
  | offer _ h => exact absurd h hcalm
  | completeTaken _ _ _ _ h => exact absurd h hnot
  | takeQuery kind querier arg =>
    have hplanner : (s.takeQuery kind querier arg).planner = s.planner :=
      State.offer_planner_of_ne (s := { s with query := some { querier := querier, kind := kind, arg := arg } }) _ hnot
    rw [State.takeQuery_frame]
    unfold State.overlay
    rw [hplanner]
    exact hquiet
  | enterSilenced =>
    have hplanner : s.enterSilenced.planner = s.planner := if_neg fun h => hnot h.1
    rw [hplanner]
    exact hquiet
  | appendDue => rw [State.appendDue_frame]; exact hquiet
  | beginSending => rw [State.beginSending_frame]; exact hquiet
  | lose => rw [State.takeBack_frame]; exact hquiet
  | abort => rw [State.takeBack_frame]; exact hquiet
  | _ => exact hquiet

theorem MaintLaw.move {C : Nat → Prop} {s t : State} (hmove : Move C s t) (hs : MaintLaw s) : MaintLaw t := by
  cases hmove with
  | levels levels _ hmaint => exact fun hnode hengaged => hmaint (hs hnode hengaged)
  | lineTick levels _ _ hmaint => exact fun hnode hengaged => hmaint.trans (hs hnode hengaged)
  | closeWindow _ => exact fun _ hengaged => absurd hengaged (by simp [State.closeWindow])
  | endPending _ _ => exact fun _ hengaged => absurd hengaged (by simp)
  | openWindow _ _ hmaint => rw [State.openWindow_frame]; exact fun _ _ => hmaint
  | hearTaken source _ =>
    intro hnode hengaged
    rw [State.hearTaken_frame] at hnode ⊢
    refine hs hnode ?_
    rw [State.hearTaken_planner] at hengaged
    split at hengaged
    · simp at hengaged
    split at hengaged
    next h => exact .inl h.1
    next => exact hengaged
  | retryTaken _ =>
    rw [State.retryTaken_frame]
    exact fun hnode hengaged => hs hnode (s.retryTaken_told.engaged hengaged)
  | offer n _ _ _ =>
    rw [State.offer_frame]
    exact fun hnode hengaged => hs hnode ((s.offer_told n).engaged hengaged)
  | takeQuery kind querier arg _ _ _ =>
    rw [State.takeQuery_frame]
    exact fun hnode hengaged => hs hnode ((s.takeQuery_told kind querier arg).engaged hengaged)
  | enterSilenced _ _ => exact fun hnode hengaged => hs hnode (s.enterSilenced_told.engaged hengaged)
  | completeTaken n _ _ _ hwindow => exact fun hnode _ => hs hnode (.inl hwindow)
  | appendDue => rw [State.appendDue_frame]; exact hs
  | writeRecord => rw [State.writeRecord_frame]; exact hs
  | beginSending => rw [State.beginSending_frame]; exact hs
  | lose => rw [State.takeBack_frame]; exact hs
  | abort => rw [State.takeBack_frame]; exact hs
  | _ => exact hs

/-! ### The laws through a step -/

/-- A planner that holds nothing and has no claim keeps its laws. -/
theorem Plans.of_nothing {s : State} (hview : s.planner.view = []) (hset : s.planner.takenSet = [])
    (hhold : s.planner.pendingHold = none) (hwindow : s.planner.window = .closed)
    (hstanding : s.planner.standing = standingOf s.cfg.k s.forecast.announced.urgency s.straps.addr []) : Plans s where
  view := hview ▸ ⟨Nat.zero_le _, .nil, .nil, fun _ h => absurd h List.not_mem_nil⟩
  standing := hview ▸ hstanding
  places := hset ▸ Nat.zero_le _
  distinct := hset ▸ .nil
  closed _ := hset
  hold := by simp [hhold, hwindow]
  contends h := absurd (hwindow.symm.trans h) (nomatch ·)

theorem plannerSide_kept : Kept fun s => QuietLaw s ∧ Plans s ∧ MaintLaw s where
  move hmove hu := ⟨hu.1.move hmove, hu.2.1.move hmove hu.1, hu.2.2.move hmove⟩
  settle hu := ⟨hu.1, { hu.2.1 with }, hu.2.2⟩
  tickAlways hu := ⟨hu.1, { hu.2.1 with }, hu.2.2⟩
  restarted _ _ _ _ _ _ _ _ :=
    ⟨fun _ => ⟨rfl, rfl, rfl, rfl, rfl⟩, .of_nothing rfl rfl rfl rfl rfl, fun h => (nomatch h)⟩
  started {u} damage levels _ _ := by
    unfold State.startWith State.leaveStarting
    split
    · exact ⟨fun _ => ⟨rfl, rfl, rfl, rfl, rfl⟩, .of_nothing rfl rfl rfl rfl rfl, fun h => (nomatch h)⟩
    split
    · exact ⟨fun h => absurd rfl h, .of_nothing rfl rfl rfl rfl rfl, fun _ h => absurd h (by rintro (h | h | h | h) <;> cases h)⟩
    · exact ⟨fun _ => ⟨rfl, rfl, rfl, rfl, rfl⟩, .of_nothing rfl rfl rfl rfl rfl, fun h => (nomatch h)⟩

/-- Settles O56: the three laws through every move, the quiet planner outside OPERATING keeping the others there. -/
theorem stepsKeepThePlanner : Obligations.StepsKeepThePlanner := by
  unfold Obligations.StepsKeepThePlanner
  intro s t hquiet hplanner hmaint hstep
  rw [plannerLaw_iff] at *
  exact plannerSide_kept.step hstep ⟨hquiet, hplanner, hmaint⟩

end Sys2Proof.Machine
end

section
/-! SUPPORT. The law of the order ring through a step. -/

namespace Sys2Proof.Machine

open Sys2Proof

/-! ### The law of the ring, by name -/

/-- The law of the ring (R164): OPEN are the positions from the head up to the tail, each of a present slot of its
own. -/
structure RingOf (present : Nat → Bool) (o : OrderList) : Prop where
  room : o.openCount ≤ Config.slots
  tail : o.tail = (o.head + o.openCount) % Config.slots
  opens : ∀ p < Config.slots, o.isOpen p ↔ (p + Config.slots - o.head) % Config.slots < o.openCount
  present : ∀ p < Config.slots, o.isOpen p → present (o.at p).slot = true
  distinct : ∀ p < Config.slots, ∀ q < Config.slots, o.isOpen p → o.isOpen q → (o.at p).slot = (o.at q).slot → p = q

/-- The ring and the open-order flags (R55). -/
structure Ring (s : State) : Prop where
  ring : RingOf (fun i => (s.cfg.slot i).present) s.orders
  flags : ∀ i < Config.slots, (s.comp i).openOrder = s.orders.opensSlot i

theorem ringLaw_iff (s : State) : RingLaw s ↔ (s.node = .operating → Ring s) := by
  refine forall_congr' fun _ => ⟨?_, ?_⟩
  · rintro ⟨hroom, htail, hopens, hpresent, hdistinct, hflags⟩
    exact ⟨⟨hroom, htail, hopens, hpresent, hdistinct⟩, hflags⟩
  · rintro ⟨⟨hroom, htail, hopens, hpresent, hdistinct⟩, hflags⟩
    exact ⟨hroom, htail, hopens, hpresent, hdistinct, hflags⟩

/-! ### Open slots -/

theorem OrderList.opensSlot_iff {o : OrderList} (hlength : o.ring.length = Config.slots) (slot : Nat) :
    o.opensSlot slot = true ↔ ∃ p < Config.slots, o.isOpen p ∧ (o.at p).slot = slot := by
  have hat {p : Nat} (hp : p < o.ring.length) : o.at p = o.ring[p] := by
    rw [OrderList.at, List.getD_eq_getElem _ _ hp]
  rw [OrderList.opensSlot, List.any_eq_true]
  constructor
  · rintro ⟨r, hr, htest⟩
    obtain ⟨p, hp, rfl⟩ := List.mem_iff_getElem.1 hr
    rw [Bool.and_eq_true, beq_iff_eq, beq_iff_eq, ← hat hp] at htest
    exact ⟨p, hlength ▸ hp, htest⟩
  · rintro ⟨p, hp, htest⟩
    refine ⟨o.ring[p]'(hlength ▸ hp), List.getElem_mem _, ?_⟩
    rw [Bool.and_eq_true, beq_iff_eq, beq_iff_eq, ← hat]
    exact htest

/-- The slots of the OPEN positions are all open: with a slot left there is a place left (R164). -/
theorem RingOf.count_lt {present : Nat → Bool} {o : OrderList} (ho : RingOf present o) (hwide : o.Wide) {slot : Nat}
    (hslot : slot < Config.slots) (hclosed : o.opensSlot slot = false) : o.openCount < Config.slots := by
  by_contra hfull
  have hopen (p : Fin Config.slots) : o.isOpen p :=
    (ho.opens p p.isLt).2 ((Nat.mod_lt _ (by decide)).trans_le (Nat.not_lt.1 hfull))
  let slotAt (p : Fin Config.slots) : Fin Config.slots := ⟨(o.at p).slot, (hwide.at p).1⟩
  have hinjective : Function.Injective slotAt := fun p q h =>
    Fin.ext (ho.distinct p p.isLt q q.isLt (hopen p) (hopen q) (Fin.mk.inj h))
  obtain ⟨p, hp⟩ := Finite.injective_iff_surjective.1 hinjective ⟨slot, hslot⟩
  rw [(OrderList.opensSlot_iff hwide.ring.1 slot).2 ⟨p, p.isLt, hopen p, Fin.mk.inj hp⟩] at hclosed
  cases hclosed

/-! ### Appending and closing -/

theorem mod_add_back_lt {head count p : Nat} (hhead : head < 32) (hcount : count < 32) (hp : p < 32) :
    (p + 32 - head) % 32 < count + 1 ↔ p = (head + count) % 32 ∨ (p + 32 - head) % 32 < count := by
  omega

theorem Ring.appendOrder {s : State} (hs : Ring s) (hwide : Widths s) {slot : Nat} (hslot : slot < Config.slots)
    (hpresent : (s.cfg.slot slot).present = true) (hclosed : (s.comp slot).openOrder = false) :
    Ring (s.appendOrder slot) := by
  obtain ⟨⟨hroom, htail, hopens, hpresents, hdistinct⟩, hflags⟩ := hs
  rw [hflags slot hslot] at hclosed
  have hcount := RingOf.count_lt (present := fun i => (s.cfg.slot i).present) ⟨hroom, htail, hopens, hpresents, hdistinct⟩ hwide.orders hslot hclosed
  have hat (p : Nat) : (s.appendOrder slot).orders.at p = if p = s.orders.tail then s.orderFor slot else s.orders.at p :=
    OrderList.at_set s.orders s.orders.tail (s.orderFor slot) p (hwide.orders.ring.1 ▸ hwide.orders.tail)
  have hopen (p : Nat) : (s.appendOrder slot).orders.isOpen p ↔ p = s.orders.tail ∨ s.orders.isOpen p := by
    rw [OrderList.isOpen, hat]
    split
    next h => exact iff_of_true rfl (.inl h)
    next h => exact (or_iff_right h).symm
  have hfree {q : Nat} (hq : q < Config.slots) (hq' : s.orders.isOpen q) : (s.orders.at q).slot ≠ slot := fun h => by
    rw [(OrderList.opensSlot_iff hwide.orders.ring.1 slot).2 ⟨q, hq, hq', h⟩] at hclosed
    cases hclosed
  have htailClosed : ¬s.orders.isOpen s.orders.tail := by
    rw [hopens _ hwide.orders.tail, htail]
    have hhead := hwide.orders.head
    simp only [Config.slots] at *
    omega
  refine ⟨⟨hcount, ?tail, fun p hp => ?opens, fun p hp => ?present, fun p hp q hq => ?distinct⟩, fun i hi => ?flags⟩
  case tail =>
    change (s.orders.tail + 1) % 32 = (s.orders.head + (s.orders.openCount + 1)) % 32
    rw [htail, Nat.mod_add_mod, Nat.add_assoc]
  case opens =>
    rw [hopen, hopens p hp, htail]
    exact (mod_add_back_lt hwide.orders.head hcount hp).symm
  case present =>
    rw [hopen, hat]
    split
    · exact fun _ => hpresent
    next h => exact fun hp' => hpresents p hp (hp'.resolve_left h)
  case distinct =>
    rw [hopen, hopen, hat, hat]
    split
    next hp' =>
      split
      next hq' => exact fun _ _ _ => hp'.trans hq'.symm
      next hq' => exact fun _ hopenq hslotq => absurd hslotq.symm (hfree hq (hopenq.resolve_left hq'))
    next hp' =>
      split
      next hq' => exact fun hopenp _ hslotp => absurd hslotp (hfree hp (hopenp.resolve_left hp'))
      next hq' =>
        exact fun hopenp hopenq hsame =>
          hdistinct p hp q hq (hopenp.resolve_left hp') (hopenq.resolve_left hq') hsame
  case flags =>
    have hring := (hwide.appendOrder hslot).orders.ring.1
    rw [State.appendOrder_comp (hwide.comps.1 ▸ hslot), Bool.eq_iff_iff, OrderList.opensSlot_iff hring]
    have hold := OrderList.opensSlot_iff hwide.orders.ring.1 i
    rw [← hflags i hi] at hold
    split
    next h =>
      refine iff_of_true rfl ⟨s.orders.tail, hwide.orders.tail, (hopen _).2 (.inl rfl), ?_⟩
      rw [hat, if_pos rfl]
      exact h.symm
    next h =>
      rw [hold]
      refine exists_congr fun p => and_congr_right fun hp => ?_
      rw [hopen, hat]
      split
      next hp' => exact iff_of_false (fun h' => htailClosed (hp' ▸ h'.1)) fun h' => h h'.2.symm
      next hp' => rw [or_iff_right hp']

theorem Ring.appendOrders {s : State} (hs : Ring s) (hwide : Widths s) {l : List Nat} (hnodup : l.Nodup)
    (hl : ∀ slot ∈ l, slot < Config.slots ∧ (s.cfg.slot slot).present = true ∧ (s.comp slot).openOrder = false) :
    Ring (s.appendOrders l) := by
  induction l generalizing s with
  | nil => exact hs
  | cons slot l ih =>
    obtain ⟨hnew, hnodup⟩ := List.nodup_cons.1 hnodup
    obtain ⟨⟨hslot, hpresent, hclosed⟩, hl⟩ := List.forall_mem_cons.1 hl
    refine ih (hs.appendOrder hwide hslot hpresent hclosed) (hwide.appendOrder hslot) hnodup fun other hother => ?_
    have hne : other ≠ slot := fun h => hnew (h ▸ hother)
    rw [State.appendOrder_comp (hwide.comps.1 ▸ hslot), if_neg hne]
    exact hl other hother

theorem Ring.appendDue {s : State} (hs : Ring s) (hwide : Widths s) : Ring s.appendDue := by
  refine hs.appendOrders hwide (l := s.dueOrder) ?_ fun slot hslot => ?_
  · exact (sortDue_perm s.comps _).nodup_iff.2 ((dueSlots_pairwise_lt 0 _ _).imp Nat.ne_of_lt)
  · obtain ⟨-, hcomps, hpresent, hclosed⟩ := State.mem_dueOrder hslot
    exact ⟨hwide.comps.1 ▸ hcomps, hpresent, hclosed⟩

theorem mod_sub_back_lt {head count p : Nat} (hhead : head < 32) (hcount : count ≤ 32) (hsome : 0 < count) (hp : p < 32) :
    (p + 32 - (head + 1) % 32) % 32 < count - 1 ↔ p ≠ head ∧ (p + 32 - head) % 32 < count := by
  omega

theorem Ring.closeHead {s : State} (hs : Ring s) (hwide : Widths s) (hsome : 0 < s.orders.openCount)
    {outcome : OrderStatus} (houtcome : outcome ≠ .opened) : Ring (s.closeHead outcome) := by
  obtain ⟨⟨hroom, htail, hopens, hpresents, hdistinct⟩, hflags⟩ := hs
  have hhead := hwide.orders.head
  have hat (p : Nat) : (s.closeHead outcome).orders.at p =
      if p = s.orders.head then
        { s.orders.at s.orders.head with status := outcome, windowAtClose := s.planner.windowCount }
      else s.orders.at p :=
    OrderList.at_set s.orders s.orders.head _ p (hwide.orders.ring.1 ▸ hhead)
  have hopen (p : Nat) : (s.closeHead outcome).orders.isOpen p ↔ p ≠ s.orders.head ∧ s.orders.isOpen p := by
    rw [OrderList.isOpen, hat]
    split
    next h => exact iff_of_false houtcome fun h' => h'.1 h
    next h => exact (and_iff_right h).symm
  have hheadOpen : s.orders.isOpen s.orders.head := by
    rw [hopens _ hhead]
    simp only [Config.slots] at *
    omega
  refine ⟨⟨?room, ?tail, fun p hp => ?opens, fun p hp hp' => ?present, fun p hp q hq hp' hq' => ?distinct⟩,
    fun i hi => ?flags⟩
  case room => exact (Nat.sub_le _ 1).trans hroom
  case tail =>
    change s.orders.tail = ((s.orders.head + 1) % 32 + (s.orders.openCount - 1)) % 32
    rw [htail, Nat.mod_add_mod, Nat.add_assoc, Nat.add_sub_cancel' hsome]
  case opens =>
    rw [hopen, hopens p hp]
    exact (mod_sub_back_lt hhead hroom hsome hp).symm
  case present =>
    obtain ⟨hne, hp'⟩ := (hopen p).1 hp'
    rw [hat, if_neg hne]
    exact hpresents p hp hp'
  case distinct =>
    obtain ⟨hnep, hp'⟩ := (hopen p).1 hp'
    obtain ⟨hneq, hq'⟩ := (hopen q).1 hq'
    rw [hat, hat, if_neg hnep, if_neg hneq]
    exact hdistinct p hp q hq hp' hq'
  case flags =>
    have hold := OrderList.opensSlot_iff hwide.orders.ring.1 i
    have hi' : i < s.comps.length := hwide.comps.1 ▸ hi
    rw [State.closeHead_comp, Bool.eq_iff_iff, OrderList.opensSlot_iff (hwide.closeHead outcome).orders.ring.1]
    simp only [hi', and_true]
    rw [← hflags i hi] at hold
    split
    next h =>
      refine iff_of_false Bool.false_ne_true fun ⟨p, hp, hp', hslot⟩ => ?_
      obtain ⟨hne, hp'⟩ := (hopen p).1 hp'
      rw [hat, if_neg hne] at hslot
      exact hne (hdistinct p hp _ hhead hp' hheadOpen (hslot.trans h))
    next h =>
      rw [hold]
      refine exists_congr fun p => and_congr_right fun hp => ?_
      rw [hopen, hat]
      split
      next hp' => exact iff_of_false (fun h' => h (hp' ▸ h'.2).symm) fun h' => h'.1.1 hp'
      next hp' => rw [and_iff_right hp']

/-! ### What a start loads -/

theorem mem_ringPositions {head count p : Nat} (hhead : head < 32) (hcount : count ≤ 32) (hp : p < 32) :
    p ∈ ringPositions head count ↔ (p + 32 - head) % 32 < count := by
  induction count generalizing head with
  | zero => simp [ringPositions]
  | succ count ih =>
    rw [ringPositions, List.mem_cons, ih (nextPosition_lt head) (by omega), nextPosition, Config.slots]
    omega

theorem derivedOpenCount_le (ring : List OrderRecord) (head tail : Nat) : derivedOpenCount ring head tail ≤ 32 := by
  unfold derivedOpenCount
  split
  · split <;> decide
  · exact (Nat.mod_lt _ (by decide)).le

theorem derivedOpenCount_tail {head tail : Nat} (ring : List OrderRecord) (hhead : head < 32) (htail : tail < 32) :
    tail = (head + derivedOpenCount ring head tail) % 32 := by
  unfold derivedOpenCount
  split
  next h =>
    subst h
    split
    · exact (Nat.add_mod_right _ _ ▸ Nat.mod_eq_of_lt hhead).symm
    · exact (Nat.mod_eq_of_lt hhead).symm
  next => simp only [Config.slots]; omega

theorem RingOf.of_ringLawful {slots : List SlotConfig} {o : OrderList} (hhead : o.head < 32) (htail : o.tail < 32)
    (hcount : o.openCount = derivedOpenCount o.ring o.head o.tail)
    (hlawful : ringLawful slots o.ring o.head o.tail = true) :
    RingOf (fun i => (slots.getD i .blank).present) o := by
  have hroom := derivedOpenCount_le o.ring o.head o.tail
  simp only [ringLawful, Bool.and_eq_true, List.all_eq_true, decide_eq_true_eq, beq_iff_eq] at hlawful
  obtain ⟨⟨hopens, hpresent⟩, hnodup⟩ := hlawful
  rw [← hcount] at hroom hopens hpresent hnodup
  have hmem {p : Nat} (hp : p < 32) : o.isOpen p ↔ p ∈ ringPositions o.head o.openCount := by
    have := hopens p (List.mem_range.2 hp)
    rw [Bool.eq_iff_iff, decide_eq_true_eq, List.contains_iff_mem] at this
    exact this
  refine ⟨hroom, hcount ▸ derivedOpenCount_tail o.ring hhead htail,
    fun p hp => (hmem hp).trans (mem_ringPositions hhead hroom hp), fun p hp hp' => hpresent p ((hmem hp).1 hp'),
    fun p hp q hq hp' hq' hsame => ?_⟩
  exact List.inj_on_of_nodup_map hnodup ((hmem hp).1 hp') ((hmem hq).1 hq') hsame

theorem RingOf.emptied (present : Nat → Bool) : RingOf present OrderList.emptied := by
  have hclosed : ∀ p < Config.slots, ¬OrderList.emptied.isOpen p := by decide
  refine ⟨Nat.zero_le _, rfl, fun p hp => iff_of_false (hclosed p hp) (Nat.not_lt_zero _),
    fun p hp h => absurd h (hclosed p hp), fun p hp _ _ h => absurd h (hclosed p hp)⟩

theorem FoundStore.Wide.loadOrders_ring {found : FoundStore} (hfound : found.Wide) :
    RingOf (fun i => (found.loadConfig.slot i).present) found.loadOrders := by
  obtain ⟨-, -, -, hhead, htail, -⟩ := hfound.loadNode
  unfold FoundStore.loadOrders
  split
  next => exact .emptied _
  next hgood =>
    refine .of_ringLawful hhead htail rfl ?_
    rw [FoundStore.listBroken, Bool.or_eq_true, not_or, Bool.not_eq_true', Bool.not_eq_false] at hgood
    exact hgood.2

theorem Ring.enterOperating {s : State} (hring : RingOf (fun i => (s.cfg.slot i).present) s.orders)
    (hwide : Widths s) (hslots : s.cfg.slots.length = Config.slots) (levels : BitVec 24) :
    Ring (s.enterOperating levels) := by
  refine ⟨hring, fun i hi => ?_⟩
  rw [State.enterOperating_comp _ _ _ (hslots ▸ hi) (hwide.comps.1 ▸ hi)]
  change ((s.cfg.slot i).present && s.orders.opensSlot i) = s.orders.opensSlot i
  rw [Bool.and_eq_right_iff_imp, OrderList.opensSlot_iff hwide.orders.ring.1]
  rintro ⟨p, hp, hopen, rfl⟩
  exact hring.present p hp hopen

/-! ### The law through a move -/

/-- The ring law reads the order records, the pointers, the configuration and the flags. -/
theorem Ring.of_same {s t : State} (hs : Ring s) (hcfg : t.cfg = s.cfg)
    (horders : t.orders = { s.orders with marks := t.orders.marks })
    (hflags : ∀ i, (t.comp i).openOrder = (s.comp i).openOrder) : Ring t := by
  obtain ⟨⟨hroom, htail, hopens, hpresents, hdistinct⟩, hflagLaw⟩ := hs
  refine ⟨?_, fun i hi => ?_⟩
  · rw [hcfg, horders]
    exact ⟨hroom, htail, hopens, hpresents, hdistinct⟩
  · rw [hflags i, horders]
    exact hflagLaw i hi

theorem mapSlots_openOrder {f : SlotConfig → Component → Component} (s : State)
    (hf : ∀ sl c, (f sl c).openOrder = c.openOrder) (i : Nat) :
    ((mapSlots f s.cfg.slots s.comps).getD i .zero).openOrder = (s.comp i).openOrder := by
  rw [mapSlots_comp]
  split
  · exact hf _ _
  · rfl

theorem Ring.move {C : Nat → Prop} {s t : State} (hmove : Move C s t) (hnode : s.node = .operating) (hwide : Widths s)
    (hs : Ring s) : Ring t := by
  have hcfg := hmove.leaves_cfg hnode
  cases hmove with
  | credit increment _ _ =>
    exact hs.of_same rfl rfl (mapSlots_openOrder s fun sl c => by rw [Component.credit_frame])
  | hour _ => exact hs.of_same rfl rfl (mapSlots_openOrder s fun sl c => by rw [Component.hour_eq])
  | measure counts encoder _ =>
    exact hs.of_same rfl rfl (mapSlots_openOrder s fun sl c => by rw [Component.measure_eq])
  | replace slot _ _ _ =>
    refine hs.of_same rfl rfl fun i => ?_
    rw [show State.comp (s.setComps _) i = _ from set_comp s slot _ i]
    split
    next h => rw [h.1]; rfl
    next => rfl
  | appendDue => exact hs.appendDue hwide
  | closeHead outcome _ hopen hclosed => exact hs.closeHead hwide hopen hclosed
  | writeRecord name _ =>
    refine hs.of_same hcfg ?_ fun i => by rw [State.writeRecord_comp]
    cases name <;> rfl
  | openWindow => rw [State.openWindow_frame]; exact { hs with }
  | hearTaken => rw [State.hearTaken_frame]; exact { hs with }
  | retryTaken => rw [State.retryTaken_frame]; exact { hs with }
  | offer => rw [State.offer_frame]; exact { hs with }
  | takeQuery => rw [State.takeQuery_frame]; exact { hs with }
  | beginSending => rw [State.beginSending_frame]; exact { hs with }
  | lose => rw [State.takeBack_frame]; exact { hs with }
  | abort => rw [State.takeBack_frame]; exact { hs with }
  | commit hcommissioning _ => exact nomatch hnode.symm.trans hcommissioning
  | _ => exact { hs with }

theorem ring_kept : Kept fun s => (Configs s ∧ Widths s) ∧ (s.node = .operating → Ring s) where
  move {C u v} hmove hu := by
    refine ⟨ranges_kept.move hmove hu.1, fun hnode => ?_⟩
    obtain ⟨-, hsame, -⟩ := hmove.leaves
    rw [hsame] at hnode
    exact (hu.2 hnode).move hmove hnode hu.1.2
  settle hu := ⟨ranges_kept.settle hu.1, fun hnode => { hu.2 hnode with }⟩
  tickAlways hu := ⟨ranges_kept.tickAlways hu.1, fun hnode => { hu.2 hnode with }⟩
  restarted _ _ _ _ _ _ hmode hu := ⟨ranges_kept.restarted _ _ _ _ _ _ hmode hu.1, (nomatch ·)⟩
  started {u} damage levels hnode hu := by
    refine ⟨ranges_kept.started damage levels hnode hu.1, ?_⟩
    have hconfig := Store.damaged_config damage hu.1.1.stored
    have hrecords := Store.damaged_inRange damage hu.1.2.records
    have hfound := Store.found_wide hrecords hconfig
    obtain ⟨-, -, -, -, -, -, -, -, -, -, -, -, -, hslots, -⟩ := hfound.loadConfig
    unfold State.startWith State.leaveStarting
    split
    · exact (nomatch ·)
    split
    · exact fun _ => .enterOperating hfound.loadOrders_ring (Widths.load hfound hrecords) hslots levels
    · exact (nomatch ·)

/-- Settles O58: orders are appended at the tail with a free place left, and closed at the head; a start keeps only a
ring that has passed the check. -/
theorem stepsKeepTheOrderRing : Obligations.StepsKeepTheOrderRing := by
  unfold Obligations.StepsKeepTheOrderRing
  intro s t hconfig hwidth hring hstep
  rw [configLaw_iff, widthLaw_iff] at *
  rw [ringLaw_iff] at *
  exact (ring_kept.step hstep ⟨⟨hconfig, hwidth⟩, hring⟩).2

end Sys2Proof.Machine
end

section
/-! SUPPORT. The laws of the transmit queue and of the bus controller through a step. -/

namespace Sys2Proof.Machine

open Sys2Proof

/-! ### The law of the queue, by its parts -/

/-- How many notices of a kind a single notice is. -/
def Notice.count (test : NoticeBody → Bool) (n : Notice) : Nat := if test n.body = true then 1 else 0

/-- How many notices of a kind are in transmission. -/
def flightCount (test : NoticeBody → Bool) (flight : Option Notice) : Nat :=
  if (flight.any fun n => test n.body) = true then 1 else 0

/-- The law of the transmit queue (R121 to R127), for the notice in transmission, with room for `live` live TAKENs and
exactly `reports` REPORTs. -/
structure QueueOf (addr : Addr) (flight : Option Notice) (silenced : Bool) (live reports : Nat) (q : NoticeQueue) :
    Prop where
  room : q.waiting.length + (if flight.isSome = true then 1 else 0) ≤ Config.queuePlaces
  ascending : Ascending addr q.waiting
  claims : (q.waiting.countP fun n => n.body.isClaimKind) + flightCount NoticeBody.isClaimKind flight ≤ 1
  taken : (q.waiting.countP fun n => n.body.isTaken) +
      (if q.removalMark = true then 0 else flightCount NoticeBody.isTaken flight) ≤ live
  reports : (q.waiting.countP fun n => n.body.isReport) + flightCount NoticeBody.isReport flight = reports
  held : q.held.isSome = true → (flight.any fun n => n.body.isClaimKind) = true
  heldKind : q.held.all (fun n => n.body.isClaimKind) = true
  mark : q.removalMark = true → (flight.any fun n => n.body.isTaken) = true
  silent : silenced = true → q.waiting = [] ∧ flight = none

/-- How many live TAKENs the queue may hold (R121, R157). -/
def Planner.takens (p : Planner) : Nat := if p.window = .contending ∧ p.takenOwed = false then 1 else 0

/-- How many REPORTs the queue holds (R129). -/
def reportsOf (query : Option PendingQuery) : Nat := if query.isSome = true then 1 else 0

/-- The queue of a state, with `live` live TAKENs and `reports` REPORTs still to be handed over. -/
abbrev Queues (s : State) (live reports : Nat) : Prop :=
  QueueOf s.straps.addr s.inFlight s.silenced live reports s.queue

theorem queueLaw_iff (s : State) : QueueLaw s ↔ Queues s s.planner.takens (reportsOf s.query) := by
  have hlive : s.liveTaken =
      (s.queue.waiting.countP fun n => n.body.isTaken) +
        (if s.queue.removalMark = true then 0 else flightCount NoticeBody.isTaken s.inFlight) := by
    unfold State.liveTaken flightCount State.sends
    cases s.queue.removalMark <;> simp
  constructor
  · rintro ⟨hroom, hascending, hclaims, htaken, hreports, hheld, hheldKind, hmark, hsilent⟩
    exact ⟨hroom, hascending, hclaims, hlive ▸ htaken, hreports, hheld, hheldKind, hmark,
      fun h => hsilent ((s.silenced_iff).1 h)⟩
  · rintro ⟨hroom, hascending, hclaims, htaken, hreports, hheld, hheldKind, hmark, hsilent⟩
    exact ⟨hroom, hascending, hclaims, hlive ▸ htaken, hreports, hheld, hheldKind, hmark,
      fun h => hsilent ((s.silenced_iff).2 h)⟩

/-! ### Kinds of notices -/

theorem NoticeBody.kinds (b : NoticeBody) :
    (b.isTaken = true → b.isClaimKind = false ∧ b.isReport = false) ∧ (b.isReport = true → b.isClaimKind = false) := by
  cases b <;> simp [NoticeBody.isTaken, NoticeBody.isReport, NoticeBody.isClaimKind]

theorem Notice.count_eq_zero {test : NoticeBody → Bool} {n : Notice} (h : test n.body = false) : n.count test = 0 :=
  if_neg (h ▸ Bool.false_ne_true)

theorem Notice.count_eq_one {test : NoticeBody → Bool} {n : Notice} (h : test n.body = true) : n.count test = 1 :=
  if_pos h

theorem Notice.count_le (test : NoticeBody → Bool) (n : Notice) : n.count test ≤ 1 := by
  unfold Notice.count
  split <;> decide

/-- A notice of one kind is not one of the others. -/
theorem Notice.count_claim {n : Notice} (h : n.body.isClaimKind = true) :
    n.count NoticeBody.isTaken = 0 ∧ n.count NoticeBody.isReport = 0 := by
  obtain ⟨htaken, hreport⟩ := n.body.kinds
  refine ⟨count_eq_zero ?_, count_eq_zero ?_⟩ <;> rw [← Bool.not_eq_true] <;> intro h'
  · exact nomatch h.symm.trans (htaken h').1
  · exact nomatch h.symm.trans (hreport h')

theorem flightCount_some (test : NoticeBody → Bool) (n : Notice) : flightCount test (some n) = n.count test := rfl

theorem flightCount_none (test : NoticeBody → Bool) : flightCount test none = 0 := rfl

theorem countP_join (addr : Addr) (n : Notice) (l : List Notice) (test : NoticeBody → Bool) :
    ((joinAfter addr n l).countP fun m => test m.body) = (l.countP fun m => test m.body) + n.count test :=
  joinAfter_countP addr n l _

theorem countP_rejoin (addr : Addr) (n : Notice) (l : List Notice) (test : NoticeBody → Bool) :
    ((rejoin addr n l).countP fun m => test m.body) = (l.countP fun m => test m.body) + n.count test :=
  rejoin_countP addr n l _

/-- Taking out one kind leaves the count of another. -/
theorem countP_without {test out : NoticeBody → Bool} (hkind : ∀ b, test b = true → out b = false) (l : List Notice) :
    ((l.filter fun n => !out n.body).countP fun n => test n.body) = l.countP fun n => test n.body := by
  rw [List.countP_filter]
  refine List.countP_congr fun n _ => ?_
  rw [Bool.and_eq_true, Bool.not_eq_true']
  exact ⟨fun h => h.1, fun h => ⟨h, hkind _ h⟩⟩

theorem countP_without_self (out : NoticeBody → Bool) (l : List Notice) :
    ((l.filter fun n => !out n.body).countP fun n => out n.body) = 0 := by
  rw [List.countP_filter, List.countP_eq_zero]
  simp

theorem countP_getLast {l : List Notice} {last : Notice} (hlast : l.getLast? = some last) (test : NoticeBody → Bool) :
    (l.countP fun m => test m.body) = (l.dropLast.countP fun m => test m.body) + last.count test := by
  obtain ⟨front, rfl⟩ := List.getLast?_eq_some_iff.1 hlast
  rw [List.dropLast_concat, List.countP_append, List.countP_singleton]
  rfl

section Ops

variable {addr : Addr} {flight : Option Notice} {silenced : Bool} {live reports : Nat} {q : NoticeQueue}

theorem QueueOf.mono {more : Nat} (hq : QueueOf addr flight silenced live reports q) (hle : live ≤ more) :
    QueueOf addr flight silenced more reports q := { hq with taken := hq.taken.trans hle }

/-- A notice joins a queue that has room, and no CLAIM or WITHDRAW for it to share a place with. -/
theorem QueueOf.join {n : Notice} {dropped : Nat} (hq : QueueOf addr flight silenced live reports q)
    (hheard : silenced = false)
    (hroom : q.waiting.length + (if flight.isSome = true then 1 else 0) < Config.queuePlaces)
    (halone : n.body.isClaimKind = true →
      (q.waiting.countP fun n => n.body.isClaimKind) = 0 ∧ flightCount NoticeBody.isClaimKind flight = 0) :
    QueueOf addr flight silenced (live + n.count NoticeBody.isTaken) (reports + n.count NoticeBody.isReport)
      { q with waiting := joinAfter addr n q.waiting, dropped := dropped } := by
  refine { hq with room := ?_, ascending := joinAfter_ascending hq.ascending, claims := ?_, taken := ?_, reports := ?_
                   silent := fun h => nomatch hheard.symm.trans h }
  · rw [joinAfter_length]
    omega
  · rw [countP_join]
    have hclaims := hq.claims
    cases hkind : n.body.isClaimKind with
    | false => rw [Notice.count_eq_zero hkind]; exact hclaims
    | true =>
      obtain ⟨hwaiting, hflight⟩ := halone hkind
      rw [hwaiting, hflight, Notice.count_eq_one hkind]
  · rw [countP_join, Nat.add_right_comm]
    exact Nat.add_le_add_right hq.taken _
  · rw [countP_join, Nat.add_right_comm, ← hq.reports]

/-- The last entry that is not in transmission goes. -/
theorem QueueOf.dropLast {last : Notice} (hq : QueueOf addr flight silenced live reports q)
    (hlast : q.waiting.getLast? = some last) :
    QueueOf addr flight silenced (live - last.count NoticeBody.isTaken) (reports - last.count NoticeBody.isReport)
      { q with waiting := q.waiting.dropLast } ∧
    last.count NoticeBody.isTaken ≤ live ∧ last.count NoticeBody.isReport ≤ reports ∧
    q.waiting.dropLast.length + 1 = q.waiting.length := by
  have hclaims := hq.claims
  have htaken := hq.taken
  have hreports := hq.reports
  have hroom := hq.room
  rw [countP_getLast hlast] at hclaims htaken hreports
  have hlength : q.waiting.dropLast.length + 1 = q.waiting.length := by
    rw [List.length_dropLast, Nat.sub_add_cancel]
    exact List.length_pos_of_ne_nil fun h => by simp [h] at hlast
  refine ⟨{ hq with room := ?_, ascending := hq.ascending.sublist (List.dropLast_sublist _), claims := ?_, taken := ?_
                    reports := ?_, silent := fun h => ?_ }, by omega, by omega, hlength⟩
  all_goals dsimp only
  · omega
  · omega
  · omega
  · omega
  · obtain ⟨hempty, hflight⟩ := hq.silent h
    exact ⟨by simp [hempty], hflight⟩

/-- A CLAIM or WITHDRAW replaces the one that waits. -/
theorem QueueOf.replace {n : Notice} (hq : QueueOf addr flight silenced live reports q) (hheard : silenced = false)
    (hkind : n.body.isClaimKind = true) (hwaits : hasClaimKind q.waiting = true) :
    QueueOf addr flight silenced live reports
      { q with waiting := joinAfter addr n (q.waiting.filter fun m => !m.body.isClaimKind) } := by
  obtain ⟨htakenKind, hreportKind⟩ := Notice.count_claim hkind
  have hpos : 0 < q.waiting.countP fun m => m.body.isClaimKind := by
    rw [List.countP_pos_iff]
    exact List.any_eq_true.1 hwaits
  have hlength := List.length_eq_length_filter_add (l := q.waiting) fun m => m.body.isClaimKind
  rw [← List.countP_eq_length_filter] at hlength
  have hclaims := hq.claims
  have htaken := hq.taken
  have hreports := hq.reports
  have hroom := hq.room
  refine { hq with room := ?_, ascending := joinAfter_ascending (hq.ascending.sublist List.filter_sublist), claims := ?_
                   taken := ?_, reports := ?_, silent := fun h => nomatch hheard.symm.trans h }
  · rw [joinAfter_length]
    omega
  · rw [countP_join, countP_without_self, Notice.count_eq_one hkind]
    omega
  · rw [countP_join, htakenKind, countP_without fun b h => (b.kinds.1 h).1]
    exact htaken
  · rw [countP_join, hreportKind, countP_without fun b h => b.kinds.2 h]
    exact hreports

/-- The Service Planner's TAKEN goes, or is marked (R125): no live one is left. -/
theorem QueueOf.removeTaken (hq : QueueOf addr flight silenced live reports q) :
    QueueOf addr flight silenced 0 reports
      { q with
        waiting := q.waiting.filter fun m => !m.body.isTaken
        removalMark := q.removalMark || (flight.any fun m => m.body.isTaken) } := by
  have hlength : (q.waiting.filter fun m => !m.body.isTaken).length ≤ q.waiting.length := List.length_filter_le _ _
  refine { hq with room := ?_, ascending := hq.ascending.sublist List.filter_sublist, claims := ?_, taken := ?_
                   reports := ?_, mark := fun h => ?_, silent := fun h => ?_ }
  · exact (Nat.add_le_add_right hlength _).trans hq.room
  · rw [countP_without]
    · exact hq.claims
    · intro b h
      rw [← Bool.not_eq_true]
      exact fun h' => nomatch h.symm.trans (b.kinds.1 h').1
  · rw [countP_without_self, Nat.zero_add]
    unfold flightCount
    cases q.removalMark <;> cases flight.any fun m => m.body.isTaken <;> simp
  · rw [countP_without]
    · exact hq.reports
    · intro b h
      rw [← Bool.not_eq_true]
      exact fun h' => nomatch h.symm.trans (b.kinds.1 h').2
  · rcases Bool.or_eq_true_iff.1 h with h | h
    · exact hq.mark h
    · exact h
  · obtain ⟨hempty, hflight⟩ := hq.silent h
    exact ⟨by simp [hempty], hflight⟩

end Ops

end Sys2Proof.Machine
end

section
/-! SUPPORT. The laws of the transmit queue through the moves. -/

namespace Sys2Proof.Machine

open Sys2Proof

/-! ### Handing a notice over -/

theorem Planner.takens_le (p : Planner) : p.takens ≤ 1 := by
  unfold Planner.takens
  split <;> decide

theorem reportsOf_le (query : Option PendingQuery) : reportsOf query ≤ 1 := by
  unfold reportsOf
  split <;> decide

theorem Planner.takens_of_ne {p : Planner} (hwindow : p.window ≠ .contending) : p.takens = 0 :=
  if_neg fun h => hwindow h.1

theorem hasClaimKind_eq_false_iff (waiting : List Notice) :
    hasClaimKind waiting = false ↔ (waiting.countP fun n => n.body.isClaimKind) = 0 := by
  rw [List.countP_eq_zero, hasClaimKind, List.any_eq_false]

theorem State.sendingClaimKind_eq (s : State) :
    s.sendingClaimKind = s.inFlight.any fun n => n.body.isClaimKind := by
  unfold State.sendingClaimKind
  cases s.inFlight <;> rfl

/-- What is told of a lost notice, to the planner and to the Query Responder. -/
theorem State.tellLost_counts (s : State) (n : Notice) :
    (n.count NoticeBody.isTaken = 0 → (s.tellLost n).planner.takens = s.planner.takens) ∧
    (n.count NoticeBody.isReport = 0 → reportsOf (s.tellLost n).query = reportsOf s.query) ∧
    (n.count NoticeBody.isReport = 1 → reportsOf (s.tellLost n).query = 0) := by
  rw [State.tellLost_eq]
  refine ⟨fun h => ?_, fun h => ?_, fun h => ?_⟩
  · have htaken : n.body.isTaken = false := by
      by_contra hkind
      exact absurd (Notice.count_eq_one (Bool.not_eq_false _ ▸ hkind)) (h ▸ Nat.zero_ne_one)
    simp [Planner.takens, htaken]
  · have hreport : ¬n.body.isReport = true := fun hkind => absurd (Notice.count_eq_one hkind) (h ▸ Nat.zero_ne_one)
    exact congrArg reportsOf (if_neg hreport)
  · have hreport : n.body.isReport = true := by
      by_contra hkind
      exact absurd h (Notice.count_eq_zero (Bool.not_eq_true _ ▸ hkind) ▸ Nat.zero_ne_one)
    exact congrArg reportsOf (if_pos hreport)

theorem State.tellLost_queue (s : State) (n : Notice) :
    (s.tellLost n).queue = s.queue ∧ (s.tellLost n).bus = s.bus ∧ (s.tellLost n).straps = s.straps := by
  rw [State.tellLost_eq]
  exact ⟨rfl, rfl, rfl⟩

/-- Handing a notice over keeps the law, if the TAKEN or REPORT that it may be is one that the law has room for; and a
REPORT is not handed over in SILENCED. -/
theorem Queues.offer {s : State} {live reports : Nat} (hs : Queues s live reports) (n : Notice)
    (hlive : live + n.count NoticeBody.isTaken ≤ s.planner.takens)
    (hreports : reports + n.count NoticeBody.isReport = reportsOf s.query)
    (hheard : n.body.isReport = true → s.silenced = false) : QueueLaw (s.offer n) := by
  rw [queueLaw_iff]
  have htop := s.planner.takens_le
  have hqtop := reportsOf_le s.query
  have halone (hplain : n.body.isClaimKind = true → hasClaimKind s.queue.waiting = false ∧ s.sendingClaimKind = false)
      (hkind : n.body.isClaimKind = true) : (s.queue.waiting.countP fun n => n.body.isClaimKind) = 0 ∧
        flightCount NoticeBody.isClaimKind s.inFlight = 0 := by
    obtain ⟨hwaits, hsends⟩ := hplain hkind
    rw [State.sendingClaimKind_eq] at hsends
    exact ⟨(hasClaimKind_eq_false_iff _).1 hwaits, if_neg (hsends ▸ Bool.false_ne_true)⟩
  have hclaimed (hkind : n.body.isClaimKind = true) : Queues s s.planner.takens (reportsOf s.query) := by
    obtain ⟨htakenKind, hreportKind⟩ := Notice.count_claim hkind
    rw [hreportKind, Nat.add_zero] at hreports
    exact hreports ▸ hs.mono (Nat.le_of_add_right_le hlive)
  refine State.offer_cases (P := fun u => Queues u u.planner.takens (reportsOf u.query)) (fun hsilenced => ?discards)
    (fun hheard hkind hwaits => (hclaimed hkind).replace hheard hkind hwaits) (fun _ hkind _ hsends => ?holds)
    (fun hheard hplain hroom => ?joins) (fun last hheard hplain hlast => ?evicts) (fun hheard => ?drops)
  case discards =>
    have hreport : n.count NoticeBody.isReport = 0 := by
      refine Notice.count_eq_zero ?_
      rw [← Bool.not_eq_true]
      exact fun h => nomatch hsilenced.symm.trans (hheard h)
    rw [hreport, Nat.add_zero] at hreports
    unfold State.discard
    split
    next hdefers =>
      have hnone : live = 0 := by
        rw [Notice.count_eq_one hdefers.1] at hlive
        omega
      subst hnone hreports
      exact hs
    next => exact hreports ▸ hs.mono (Nat.le_of_add_right_le hlive)
  case holds =>
    exact { hclaimed hkind with held := fun _ => s.sendingClaimKind_eq ▸ hsends, heldKind := hkind }
  case joins => exact hreports ▸ (hs.join hheard hroom (halone hplain)).mono hlive
  case evicts =>
    obtain ⟨hshort, htaken, hreport, hlength⟩ := hs.dropLast hlast
    have hroom := hs.room
    have hclaims := halone hplain
    have hjoined := hshort.join (dropped := satAdd Config.countTop s.queue.dropped 1) hheard
      (by dsimp only; omega) fun hkind => by
        obtain ⟨hwaiting, hflight⟩ := hclaims hkind
        rw [countP_getLast hlast] at hwaiting
        exact ⟨Nat.eq_zero_of_add_eq_zero_right hwaiting, hflight⟩
    obtain ⟨hqueue, hbus, hstraps⟩ :=
      State.tellLost_queue ((s.countDropped.setWaiting s.queue.waiting.dropLast).joinQueue n) last
    obtain ⟨hsame, hkept, hended⟩ :=
      State.tellLost_counts ((s.countDropped.setWaiting s.queue.waiting.dropLast).joinQueue n) last
    rw [Queues, State.inFlight, State.silenced, hqueue, hbus, hstraps]
    have hlastTaken := last.count_le NoticeBody.isTaken
    have hlastReport := last.count_le NoticeBody.isReport
    have hbound : live - last.count NoticeBody.isTaken + n.count NoticeBody.isTaken ≤
        (((s.countDropped.setWaiting s.queue.waiting.dropLast).joinQueue n).tellLost last).planner.takens := by
      rcases Nat.le_one_iff_eq_zero_or_eq_one.1 hlastTaken with hnot | hlost
      · rw [hsame hnot, hnot]
        exact hlive
      · omega
    have hcount : reports - last.count NoticeBody.isReport + n.count NoticeBody.isReport =
        reportsOf (((s.countDropped.setWaiting s.queue.waiting.dropLast).joinQueue n).tellLost last).query := by
      rcases Nat.le_one_iff_eq_zero_or_eq_one.1 hlastReport with hnot | hlost
      · rw [hkept hnot, hnot]
        exact hreports
      · rw [hended hlost]
        omega
    exact hcount ▸ hjoined.mono hbound
  case drops =>
    obtain ⟨hqueue, hbus, hstraps⟩ := State.tellLost_queue s.countDropped n
    obtain ⟨hsame, hkept, hended⟩ := State.tellLost_counts s.countDropped n
    rw [Queues, State.inFlight, State.silenced, hqueue, hbus, hstraps]
    have htaken := n.count_le NoticeBody.isTaken
    have hreport := n.count_le NoticeBody.isReport
    have hbound : live ≤ (s.countDropped.tellLost n).planner.takens := by
      rcases Nat.le_one_iff_eq_zero_or_eq_one.1 htaken with hnot | hlost
      · rw [hsame hnot]
        exact Nat.le_of_add_right_le hlive
      · omega
    have hcount : reports = reportsOf (s.countDropped.tellLost n).query := by
      rcases Nat.le_one_iff_eq_zero_or_eq_one.1 hreport with hnot | hlost
      · rw [hkept hnot]
        rw [hnot] at hreports
        exact hreports
      · rw [hended hlost]
        omega
    exact hcount ▸ { hs.mono hbound with }

/-! ### Transmission -/

section Ops

variable {addr : Addr} {silenced : Bool} {live reports : Nat} {q : NoticeQueue}

/-- The head notice goes into transmission. -/
theorem QueueOf.begin {n : Notice} {rest : List Notice} (hq : QueueOf addr none silenced live reports q)
    (hwaiting : q.waiting = n :: rest) (hheard : silenced = false) :
    QueueOf addr (some n) silenced live reports { q with waiting := rest } := by
  obtain ⟨hroom, hascending, hclaims, htaken, hreports, hheld, hheldKind, hmark, -⟩ := hq
  have hheldNone : ¬q.held.isSome = true := fun h => nomatch hheld h
  have hunmarked : ¬q.removalMark = true := fun h => nomatch hmark h
  rw [hwaiting] at hroom hascending hclaims htaken hreports
  rw [List.countP_cons] at hclaims htaken hreports
  rw [if_neg hunmarked] at htaken
  refine ⟨hroom, (List.pairwise_cons.1 hascending).2, hclaims, ?_, hreports, fun h => absurd h hheldNone, hheldKind,
    fun h => absurd h hunmarked, fun h => nomatch hheard.symm.trans h⟩
  rw [if_neg hunmarked]
  exact htaken

/-- A notice that was lost or aborted returns to its place. -/
theorem QueueOf.rejoin {n : Notice} (hq : QueueOf addr (some n) silenced live reports q)
    (hheld : q.held = none) (hunmarked : q.removalMark = false) (hheard : silenced = false) :
    QueueOf addr none silenced live reports { q with waiting := rejoin addr n q.waiting } := by
  obtain ⟨hroom, hascending, hclaims, htaken, hreports, -, -, -, -⟩ := hq
  rw [if_neg (hunmarked ▸ Bool.false_ne_true)] at htaken
  refine ⟨?_, rejoin_ascending hascending, ?_, ?_, ?_, fun h => ?_, ?_, fun h => (nomatch hunmarked.symm.trans h),
    fun h => (nomatch hheard.symm.trans h)⟩
  · rw [rejoin_length]
    exact hroom
  · rw [countP_rejoin]
    exact hclaims
  · rw [countP_rejoin, if_neg (hunmarked ▸ Bool.false_ne_true)]
    exact htaken
  · rw [countP_rejoin]
    exact hreports
  · rw [hheld] at h
    cases h
  · rw [hheld]
    rfl

/-- The held successor joins in the stead of a notice that is gone from the queue. -/
theorem QueueOf.succeed {n successor : Notice} (hq : QueueOf addr (some n) silenced live reports q)
    (hheld : q.held = some successor) (hheard : silenced = false) :
    QueueOf addr none silenced live reports
      { q with waiting := joinAfter addr successor q.waiting, held := none, removalMark := false } := by
  obtain ⟨hroom, hascending, hclaims, htaken, hreports, hsends, hheldKind, hmark, -⟩ := hq
  have hkind : n.body.isClaimKind = true := hsends (by rw [hheld]; rfl)
  have hsuccessor : successor.body.isClaimKind = true := by
    rw [hheld] at hheldKind
    exact hheldKind
  obtain ⟨hnotTaken, hnotReport⟩ := Notice.count_claim hkind
  obtain ⟨hnotTaken', hnotReport'⟩ := Notice.count_claim hsuccessor
  rw [flightCount_some] at hclaims htaken hreports
  rw [Notice.count_eq_one hkind] at hclaims
  rw [hnotReport] at hreports
  refine ⟨?_, joinAfter_ascending hascending, ?_, ?_, ?_, (nomatch ·), rfl, (nomatch ·),
    fun h => nomatch hheard.symm.trans h⟩
  · rw [joinAfter_length]
    exact hroom
  · rw [countP_join, Notice.count_eq_one hsuccessor]
    exact hclaims
  · rw [countP_join, hnotTaken']
    exact (Nat.le_add_right _ _).trans htaken
  · rw [countP_join, hnotReport']
    exact hreports

/-- The notice in transmission goes without a successor. -/
theorem QueueOf.leave {n : Notice} (hq : QueueOf addr (some n) silenced live reports q) (hheld : q.held = none) :
    QueueOf addr none silenced live (reports - n.count NoticeBody.isReport) { q with removalMark := false } := by
  obtain ⟨hroom, hascending, hclaims, htaken, hreports, -, -, -, hsilent⟩ := hq
  refine ⟨(Nat.le_add_right _ _).trans hroom, hascending, (Nat.le_add_right _ _).trans hclaims,
    (Nat.le_add_right _ _).trans htaken, ?_, fun h => ?_, ?_, (nomatch ·), fun h => ⟨(hsilent h).1, rfl⟩⟩
  · rw [← hreports, flightCount_some, flightCount_none, Nat.add_sub_cancel, Nat.add_zero]
  · rw [hheld] at h
    cases h
  · rw [hheld]
    rfl

/-- SILENCED empties the queue (R127). -/
theorem QueueOf.empty (addr : Addr) (silenced : Bool) (live dropped : Nat) :
    QueueOf addr none silenced live 0 { waiting := [], held := none, removalMark := false, dropped := dropped } :=
  ⟨Nat.zero_le 8, .nil, Nat.zero_le 1, Nat.zero_le _, rfl, (nomatch ·), rfl, (nomatch ·), fun _ => ⟨rfl, rfl⟩⟩

end Ops

/-- What the queue holds after a loss or an abort. -/
theorem Queues.takeBack {u : State} {n : Notice} {silenced : Bool} {live reports : Nat}
    (hq : QueueOf u.straps.addr (some n) silenced live reports u.queue) (hflight : u.inFlight = none)
    (hheard : u.silenced = false) : Queues (u.takeBack n) live reports := by
  have hheard' : silenced = false := by
    by_contra h
    exact nomatch (hq.silent (Bool.not_eq_false _ ▸ h)).2
  have hgoal {q : NoticeQueue} (h : QueueOf u.straps.addr none silenced live reports q) :
      Queues { u with queue := q } live reports := by
    rw [hheard', ← hheard, ← hflight] at h
    exact h
  have hmark (hkind : n.body.isTaken = false) : u.queue.removalMark = false := by
    rw [← Bool.not_eq_true]
    exact fun h => nomatch hkind.symm.trans (hq.mark h)
  unfold State.takeBack
  split
  next hremoved =>
    rw [Bool.and_eq_true] at hremoved
    obtain ⟨htaken, -⟩ := hremoved
    obtain ⟨hclaim, hreport⟩ := n.body.kinds.1 htaken
    have hheld : u.queue.held = none := by
      rw [← Option.not_isSome_iff_eq_none]
      exact fun h => nomatch hclaim.symm.trans (hq.held h)
    have hleft := hq.leave hheld
    rw [Notice.count_eq_zero hreport] at hleft
    exact hgoal hleft
  next hstays =>
    split
    next hclaim =>
      have hunmarked : u.queue.removalMark = false := hmark (by
        rw [← Bool.not_eq_true]
        exact fun h => nomatch hclaim.symm.trans (n.body.kinds.1 h).1)
      split
      next successor hheld =>
        have hnext := hq.succeed hheld hheard'
        rw [← hunmarked] at hnext
        exact hgoal hnext
      next hheld => exact hgoal (hq.rejoin hheld hunmarked hheard')
    next hclaim =>
      have hheld : u.queue.held = none := by
        rw [← Option.not_isSome_iff_eq_none]
        exact fun h => hclaim (hq.held h)
      have hunmarked : u.queue.removalMark = false := by
        rw [← Bool.not_eq_true]
        exact fun h => hstays (Bool.and_eq_true_iff.2 ⟨hq.mark h, h⟩)
      exact hgoal (hq.rejoin hheld hunmarked hheard')

/-- What the queue holds after a notice has completed: the REPORT, if it was one, is gone. -/
theorem Queues.completeFrame {s : State} {n : Notice} {live reports : Nat} (hs : Queues s live reports)
    (hsends : s.inFlight = some n) :
    Queues s.completeFrame live (reports - n.count NoticeBody.isReport) := by
  rw [Queues, hsends] at hs
  have hheard : s.silenced = false := by
    by_contra h
    exact nomatch (hs.silent (Bool.not_eq_false _ ▸ h)).2
  cases hheld : s.queue.held with
  | none =>
    have hleft := hs.leave hheld
    refine (congrArg (QueueOf _ _ _ _ _) ?_).mp hleft
    simp only [State.completeFrame, State.dropCompleted, State.setBus_queue, hheld]
  | some successor =>
    have hkind : n.body.isClaimKind = true := hs.held (by rw [hheld]; rfl)
    obtain ⟨-, hreport⟩ := Notice.count_claim hkind
    rw [hreport]
    have hnext := hs.succeed hheld hheard
    refine (congrArg (QueueOf _ _ _ _ _) ?_).mp hnext
    simp only [State.completeFrame, State.dropCompleted, State.setBus_queue, State.setBus_straps, hheld]

end Sys2Proof.Machine
end

section
/-! SUPPORT. The laws of the bus side through a step. -/

namespace Sys2Proof.Machine

open Sys2Proof

/-! ### The law of the queue through a move -/

/-- A planner with room for as many TAKENs keeps the law of the queue. -/
theorem QueueLaw.setPlanner {s : State} (hs : QueueLaw s) {p : Planner} (hle : s.planner.takens ≤ p.takens) :
    QueueLaw (s.setPlanner p) :=
  (queueLaw_iff _).2 (((queueLaw_iff s).1 hs).mono hle)

theorem QueueLaw.removeTaken {s : State} (hs : QueueLaw s) (p : Planner) : QueueLaw (s.removeTaken.setPlanner p) :=
  (queueLaw_iff _).2 ((((queueLaw_iff s).1 hs).removeTaken).mono (Nat.zero_le _))

theorem QueueLaw.offer {s : State} (hs : QueueLaw s) {n : Notice} (htaken : n.body.isTaken = false)
    (hreport : n.body.isReport = false) : QueueLaw (s.offer n) :=
  Queues.offer ((queueLaw_iff s).1 hs) n (by rw [Notice.count_eq_zero htaken, Nat.add_zero])
    (by rw [Notice.count_eq_zero hreport, Nat.add_zero]) fun h => nomatch hreport.symm.trans h

/-- A contending node that has no live TAKEN in the queue hands its TAKEN over. -/
theorem QueueLaw.offerTaken {s : State} (hs : QueueLaw s) {p : Planner} (hnone : s.planner.takens = 0)
    (hwindow : p.window = .contending) (hfresh : p.takenOwed = false) (values : TakenValues) :
    QueueLaw ((s.setPlanner p).offer (takenNotice values)) := by
  have hroom : p.takens = 1 := if_pos ⟨hwindow, hfresh⟩
  refine Queues.offer (live := 0) (reports := reportsOf s.query) ?_ _ ?_ rfl (nomatch ·)
  · exact hnone ▸ (queueLaw_iff s).1 hs
  · exact hroom.ge

theorem QueueLaw.hearTaken {s : State} (hs : QueueLaw s) (source : Addr) : QueueLaw (s.hearTaken source) := by
  unfold State.hearTaken
  split
  case h_1 hwindow =>
    exact hs.setPlanner ((Planner.takens_of_ne (by rw [hwindow]; exact (nomatch ·))).trans_le (Nat.zero_le _))
  case h_2 =>
    split
    · exact hs.removeTaken _
    · exact hs.setPlanner le_rfl
  all_goals exact hs.setPlanner le_rfl

theorem QueueLaw.decideWindow {s : State} (hs : QueueLaw s) (hwindow : s.planner.window ≠ .contending)
    (hfresh : s.planner.takenOwed = false) : QueueLaw s.decideWindow := by
  have hnone := Planner.takens_of_ne hwindow
  unfold State.decideWindow
  split
  · exact hs.setPlanner (hnone ▸ Nat.zero_le _)
  split
  · exact hs.offerTaken (p := { s.planner with window := .contending, takenValues := some _ }) hnone rfl hfresh _
  · exact hs.setPlanner (hnone ▸ Nat.zero_le _)

theorem QueueLaw.openWindow {s : State} (hs : QueueLaw s) (hwindow : s.planner.window ≠ .contending) :
    QueueLaw s.openWindow := by
  have hcopied : QueueLaw s.countWindow.copyAnnounced :=
    hs.setPlanner (p := s.countWindow.copyAnnounced.planner) ((Planner.takens_of_ne hwindow).trans_le (Nat.zero_le _))
  unfold State.openWindow
  dsimp only
  split
  · have hsame : (s.countWindow.copyAnnounced.offer withdrawNotice).planner = s.countWindow.copyAnnounced.planner :=
      State.offer_planner_of_ne _ hwindow
    exact (hcopied.offer rfl rfl).decideWindow (hsame ▸ hwindow) (by rw [hsame]; rfl)
  · exact hcopied.decideWindow hwindow rfl

theorem QueueLaw.retryTaken {s : State} (hs : QueueLaw s) : QueueLaw s.retryTaken := by
  unfold State.retryTaken
  split
  next howed =>
    rw [Bool.and_eq_true, beq_iff_eq] at howed
    split
    · have hnone : s.planner.takens = 0 := if_neg fun h => Bool.false_ne_true (h.2.symm.trans howed.1)
      exact hs.offerTaken (p := { s.planner with takenOwed := false }) hnone howed.2 rfl _
    · exact hs
  next => exact hs

theorem QueueLaw.takeQuery {s : State} (hs : QueueLaw s) (hheard : s.silenced = false) (hfree : s.query = none)
    (kind : QueryKind) (querier : Addr) (arg : BitVec 5) : QueueLaw (s.takeQuery kind querier arg) := by
  refine Queues.offer (s := { s with query := _ }) (live := s.planner.takens) (reports := 0) ?_ _ le_rfl rfl
    fun _ => hheard
  have hqueue := (queueLaw_iff s).1 hs
  rw [hfree] at hqueue
  exact hqueue

theorem QueueLaw.beginSending {s : State} (hs : QueueLaw s) (hmay : s.maySend = true) : QueueLaw s.beginSending := by
  simp only [State.maySend, Bool.and_eq_true, beq_iff_eq] at hmay
  obtain ⟨⟨⟨-, hmode⟩, hwaits⟩, -⟩ := hmay
  have hflight : s.inFlight = none := by rw [State.inFlight, hwaits]
  have hheard : s.silenced = false := by rw [State.silenced, hmode]; rfl
  have hqueue := (queueLaw_iff s).1 hs
  unfold State.beginSending
  split
  next n rest hwaiting =>
    rw [Queues, hflight] at hqueue
    exact (queueLaw_iff _).2 (hqueue.begin hwaiting hheard)
  next => exact hs

/-- A controller whose notice in transmission is lost takes it back. -/
theorem QueueLaw.takeBack {s : State} (hs : QueueLaw s) {n : Notice} (hsends : s.inFlight = some n)
    {b : BusController} (hactivity : b.activity = .receiving) (hmode : b.mode ≠ .silenced) :
    QueueLaw ((s.setBus b).takeBack n) := by
  have hqueue := (queueLaw_iff s).1 hs
  rw [Queues, hsends] at hqueue
  have htaken : Queues ((s.setBus b).takeBack n) s.planner.takens (reportsOf s.query) := by
    refine Queues.takeBack hqueue ?_ ?_
    · rw [State.inFlight, State.setBus_bus, hactivity]
    · rw [← Bool.not_eq_true, State.silenced_iff]
      exact hmode
  rw [queueLaw_iff]
  rw [State.takeBack_frame] at htaken ⊢
  exact htaken

theorem QueueLaw.heard {s : State} (hs : QueueLaw s) {n : Notice} (hsends : s.inFlight = some n) :
    s.bus.mode ≠ .silenced := by
  obtain ⟨-, -, -, -, -, -, -, -, hsilent⟩ := hs
  exact fun h => nomatch hsends.symm.trans (hsilent h).2

theorem QueueLaw.complete {s : State} (hs : QueueLaw s) {n : Notice} (hsends : s.inFlight = some n) :
    QueueLaw { s.completeFrame with query := if n.body.isReport = true then none else s.query } := by
  have hqueue := Queues.completeFrame ((queueLaw_iff s).1 hs) hsends
  rw [queueLaw_iff]
  have htop := reportsOf_le s.query
  refine (congrArg (QueueOf s.straps.addr s.completeFrame.inFlight s.completeFrame.silenced s.planner.takens · s.completeFrame.queue) ?_).mp
    hqueue
  change _ = reportsOf (if _ then _ else _)
  split
  next hreport =>
    rw [Notice.count_eq_one hreport]
    exact Nat.sub_eq_zero_of_le htop
  next hreport => rw [Notice.count_eq_zero (Bool.not_eq_true _ ▸ hreport), Nat.sub_zero]

theorem QueueLaw.completeTaken {s : State} (hs : QueueLaw s) {n : Notice} (hsends : s.inFlight = some n)
    (htaken : n.body.isTaken = true) (hunmarked : s.queue.removalMark = false) :
    QueueLaw s.completeFrame.enterServicing := by
  have hqueue := (queueLaw_iff s).1 hs
  have hlive := hqueue.taken
  rw [hsends, hunmarked, if_neg Bool.false_ne_true, flightCount_some, Notice.count_eq_one htaken] at hlive
  have hnone := Nat.eq_zero_of_le_zero (Nat.le_of_lt_succ (hlive.trans s.planner.takens_le))
  obtain ⟨hclaim, hreport⟩ := n.body.kinds.1 htaken
  have hheld : s.queue.held = none := by
    rw [← Option.not_isSome_iff_eq_none]
    intro h
    have hkind := hqueue.held h
    rw [hsends] at hkind
    exact nomatch hclaim.symm.trans hkind
  have hafter := Queues.completeFrame hqueue hsends
  rw [Notice.count_eq_zero hreport, Nat.sub_zero] at hafter
  rw [queueLaw_iff]
  refine { hafter with taken := ?_ }
  change (List.countP _ s.completeFrame.queue.waiting) + 0 ≤ 0
  simp only [State.completeFrame, State.dropCompleted, State.setBus_queue, hheld]
  exact hnone.le

theorem QueueLaw.enterSilenced {s : State} (hs : QueueLaw s) (hwaits : s.bus.activity = .waiting) :
    QueueLaw s.enterSilenced := by
  have hflight : s.enterSilenced.inFlight = none := by rw [State.inFlight, State.enterSilenced, hwaits]
  rw [queueLaw_iff, Queues, hflight]
  have hquery : reportsOf s.enterSilenced.query = 0 := by
    have hreports := ((queueLaw_iff s).1 hs).reports
    have hnone : s.inFlight = none := by rw [State.inFlight, hwaits]
    rw [hnone, flightCount_none, Nat.add_zero] at hreports
    change reportsOf (if _ then _ else _) = 0
    split
    · rfl
    next hno =>
      rw [← hreports, List.countP_eq_zero]
      simpa using hno
  rw [hquery]
  exact QueueOf.empty _ _ _ _

theorem QueueLaw.move {C : Nat → Prop} {s t : State} (hmove : Move C s t) (hs : QueueLaw s) : QueueLaw t := by
  cases hmove with
  | openWindow _ hwindow _ => exact hs.openWindow (by rcases hwindow with h | h <;> rw [h] <;> exact (nomatch ·))
  | closeWindow _ => exact QueueLaw.removeTaken (s := s.setLines _) hs _
  | endPending _ hwindow =>
    exact hs.setPlanner ((Planner.takens_of_ne (by rw [hwindow]; exact (nomatch ·))).trans_le (Nat.zero_le _))
  | hearTaken source _ => exact hs.hearTaken source
  | retryTaken _ => exact hs.retryTaken
  | offer n _ htaken hreport => exact hs.offer htaken hreport
  | takeQuery kind querier arg _ hheard hfree => exact hs.takeQuery hheard hfree kind querier arg
  | busIdle _ hfree =>
    have hnone : (s.setBus { s.bus with view := .idle, activity := s.bus.activity.atIdle, seenIdle := true }).inFlight =
        s.inFlight := by
      unfold State.inFlight at hfree ⊢
      cases hactivity : s.bus.activity with
      | sending n => simp [hactivity] at hfree
      | _ => simp [Activity.atIdle]
    rw [queueLaw_iff, Queues, hnone] at *
    exact hs
  | beginReception _ =>
    have hsame : s.beginReception.inFlight = s.inFlight := by
      unfold State.beginReception State.inFlight
      cases s.bus.activity <;> simp
    rw [queueLaw_iff, Queues, hsame] at *
    exact hs
  | beginSending hmay => exact hs.beginSending hmay
  | lose n hsends => exact hs.takeBack hsends rfl (hs.heard hsends)
  | abort n hsends =>
    refine hs.takeBack hsends ?_ ?_
    · unfold BusController.aborted
      split <;> rfl
    · unfold BusController.aborted
      split
      · exact (nomatch ·)
      · exact hs.heard hsends
  | complete n hsends => exact hs.complete hsends
  | completeTaken n hsends htaken hunmarked _ => exact hs.completeTaken hsends htaken hunmarked
  | endReception activity hreads hactivity =>
    have hbefore : s.inFlight = none := by
      simp only [State.reads, Bool.and_eq_true, Bool.or_eq_true, beq_iff_eq] at hreads
      unfold State.inFlight
      rcases hreads.2 with h | h <;> rw [h]
    have hafter : (s.endReception activity).inFlight = none := by
      unfold State.inFlight State.endReception
      rcases hactivity with rfl | rfl <;> rfl
    rw [queueLaw_iff, Queues, hafter]
    rw [queueLaw_iff, Queues, hbefore] at hs
    exact hs
  | enterSilenced _ hwaits => exact hs.enterSilenced hwaits
  | muteEnd _ _ =>
    obtain ⟨hroom, hascending, hclaims, htaken, hreports, hheld, hheldKind, hmark, hsilent⟩ := hs
    refine ⟨hroom, hascending, hclaims, htaken, hreports, hheld, hheldKind, hmark, fun h => ?_⟩
    change (if _ then _ else _) = _ at h
    split at h
    · cases h
    · exact hsilent h
  | appendDue => rw [State.appendDue_frame]; exact hs
  | writeRecord => rw [State.writeRecord_frame]; exact hs
  | _ => exact hs

/-! ### The law of the controller through a move -/

/-- The law of the bus controller, by name. -/
structure Controls (s : State) : Prop where
  top : s.bus.faultCount ≤ Config.faultTop
  mutes : s.bus.muteMs.isSome = true ↔ s.bus.faultCount = Config.faultTop
  runs : s.bus.mode = .mute → s.bus.muteMs.isSome = true
  rests : s.bus.muteMs.isSome = true → s.bus.mode ≠ .active
  timer : s.bus.muteMs.all (fun ms => decide (ms ≤ Config.muteMs)) = true
  sends : s.inFlight.isSome = true → s.bus.mode = .active ∧ s.bus.view = .busy
  idle : s.bus.view = .idle → s.bus.activity = .waiting ∧ s.bus.seenIdle = true
  still : s.running = false → s.bus = { State.reset.bus with mode := s.bus.mode }

theorem busLaw_iff (s : State) : BusLaw s ↔ Controls s := by
  constructor
  · rintro ⟨htop, hmutes, hruns, hrests, htimer, hsends, hidle, hstill⟩
    exact ⟨htop, hmutes, hruns, hrests, htimer, hsends, hidle, hstill⟩
  · rintro ⟨htop, hmutes, hruns, hrests, htimer, hsends, hidle, hstill⟩
    exact ⟨htop, hmutes, hruns, hrests, htimer, hsends, hidle, hstill⟩

/-- While a notice is in transmission the node runs, no MUTE runs, and the fault count is below its top. -/
theorem Controls.sending {s : State} (hs : Controls s) {n : Notice} (hsends : s.inFlight = some n) :
    s.running = true ∧ s.bus.mode = .active ∧ s.bus.view = .busy ∧ s.bus.muteMs = none ∧
      s.bus.faultCount < Config.faultTop := by
  obtain ⟨hactive, hbusy⟩ := hs.sends (by rw [hsends]; rfl)
  have hunmuted : ¬s.bus.muteMs.isSome = true := fun h => hs.rests h hactive
  refine ⟨?_, hactive, hbusy, Option.not_isSome_iff_eq_none.1 hunmuted,
    lt_of_le_of_ne hs.top fun h => hunmuted (hs.mutes.2 h)⟩
  by_contra hstopped
  have hstill := hs.still (Bool.not_eq_true _ ▸ hstopped)
  rw [State.inFlight, hstill] at hsends
  cases hsends

/-- A controller that stands at its value after power-on, in a mode other than MUTE, meets the law. -/
theorem Controls.of_reset {s : State} (hbus : s.bus = { State.reset.bus with mode := s.bus.mode })
    (hmode : s.bus.mode ≠ .mute) : Controls s := by
  have hflight : s.inFlight = none := by rw [State.inFlight, hbus]; rfl
  refine ⟨?_, ?_, fun h => absurd h hmode, ?_, ?_, fun h => ?_, ?_, fun _ => hbus⟩
  · rw [hbus]; exact Nat.zero_le 32
  · rw [hbus]; exact iff_of_false Bool.false_ne_true (nomatch ·)
  · rw [hbus]; exact (nomatch ·)
  · rw [hbus]; rfl
  · rw [hflight] at h; cases h
  · rw [hbus]; exact (nomatch ·)

theorem Controls.move {C : Nat → Prop} {s t : State} (hmove : Move C s t) (hs : Controls s) : Controls t := by
  have hrun {u : State} (h : s.running = true) (hsame : u.node = s.node) (hu : u.running = false) :
      u.bus = { State.reset.bus with mode := u.bus.mode } := by
    rw [State.running, hsame] at hu
    exact nomatch h.symm.trans hu
  cases hmove with
  | busIdle hrunning hfree =>
    have hnone : s.bus.activity.atIdle = .waiting := by
      cases hactivity : s.bus.activity with
      | sending n => simp [State.inFlight, hactivity] at hfree
      | _ => rfl
    refine { hs with sends := fun h => ?_, idle := fun _ => ⟨hnone, rfl⟩, still := hrun hrunning rfl }
    rw [State.inFlight, State.setBus_bus] at h
    dsimp only at h
    rw [hnone] at h
    cases h
  | beginReception hrunning =>
    refine { hs with sends := fun h => ⟨(hs.sends ?_).1, rfl⟩, idle := (nomatch ·), still := hrun hrunning rfl }
    unfold State.beginReception State.inFlight at h
    unfold State.inFlight
    cases hactivity : s.bus.activity <;> simp [hactivity] at h ⊢
  | beginSending hmay =>
    simp only [State.maySend, Bool.and_eq_true, beq_iff_eq] at hmay
    obtain ⟨⟨⟨hrunning, hmode⟩, -⟩, -⟩ := hmay
    unfold State.beginSending
    split
    · exact { hs with sends := fun _ => ⟨hmode, rfl⟩, idle := (nomatch ·), still := hrun hrunning rfl }
    · exact hs
  | lose n hsends =>
    obtain ⟨hrunning, -, hbusy, -⟩ := hs.sending hsends
    rw [State.takeBack_frame]
    exact { hs with sends := (nomatch ·), idle := fun h => (nomatch hbusy.symm.trans h), still := hrun hrunning rfl }
  | abort n hsends =>
    obtain ⟨hrunning, hactive, hbusy, hunmuted, hbelow⟩ := hs.sending hsends
    rw [State.takeBack_frame]
    have haborted : Controls (s.setBus s.bus.aborted) := by
      unfold BusController.aborted
      split
      next =>
        exact
          { top := le_rfl, mutes := iff_of_true rfl rfl, runs := fun _ => rfl, rests := fun _ => (nomatch ·), timer := rfl
            sends := (nomatch ·), idle := fun h => (nomatch hbusy.symm.trans h), still := hrun hrunning rfl }
      next hroom =>
        have hnone : ¬s.bus.muteMs.isSome = true := by rw [hunmuted]; exact Bool.false_ne_true
        exact
          { hs with
            top := hbelow, mutes := iff_of_false hnone (Nat.ne_of_lt (Nat.lt_of_not_le hroom))
            sends := (nomatch ·), idle := fun h => (nomatch hbusy.symm.trans h), still := hrun hrunning rfl }
    exact { haborted with }
  | complete n hsends =>
    obtain ⟨hrunning, hactive, hbusy, hunmuted, hbelow⟩ := hs.sending hsends
    have hnone : ¬s.bus.muteMs.isSome = true := by rw [hunmuted]; exact Bool.false_ne_true
    have hlower : s.bus.faultCount - 1 < Config.faultTop := (Nat.sub_le _ _).trans_lt hbelow
    exact
      { hs with
        top := hlower.le, mutes := iff_of_false hnone hlower.ne, sends := (nomatch ·)
        idle := fun h => (nomatch hbusy.symm.trans h), still := hrun hrunning rfl }
  | completeTaken n hsends _ _ _ =>
    obtain ⟨hrunning, hactive, hbusy, hunmuted, hbelow⟩ := hs.sending hsends
    have hnone : ¬s.bus.muteMs.isSome = true := by rw [hunmuted]; exact Bool.false_ne_true
    have hlower : s.bus.faultCount - 1 < Config.faultTop := (Nat.sub_le _ _).trans_lt hbelow
    exact
      { hs with
        top := hlower.le, mutes := iff_of_false hnone hlower.ne, sends := (nomatch ·)
        idle := fun h => (nomatch hbusy.symm.trans h), still := hrun hrunning rfl }
  | endReception activity hreads hactivity =>
    simp only [State.reads, Bool.and_eq_true] at hreads
    refine { hs with sends := fun h => ?_, idle := (nomatch ·), still := hrun hreads.1 rfl }
    unfold State.inFlight State.endReception at h
    rcases hactivity with rfl | rfl <;> cases h
  | enterSilenced hrunning hwaits =>
    refine { hs with runs := (nomatch ·), rests := fun _ => (nomatch ·), sends := fun h => ?_, still := hrun hrunning rfl }
    unfold State.inFlight State.enterSilenced at h
    simp [hwaits] at h
  | setWitness driven hrunning => exact { hs with still := hrun hrunning rfl }
  | muteEnd hrunning hmute =>
    refine
      { hs with
        top := Nat.zero_le _, mutes := by simp, runs := fun h => ?_, rests := (nomatch ·), timer := rfl
        sends := fun h => ?_, still := hrun hrunning rfl }
    · change (if _ then _ else _) = _ at h
      split at h
      · cases h
      next hmode => exact absurd h hmode
    · exact absurd (hs.sends h).1 (hs.rests hmute)
  | appendDue => rw [State.appendDue_frame]; exact { hs with }
  | writeRecord => rw [State.writeRecord_frame]; exact { hs with }
  | openWindow => rw [State.openWindow_frame]; exact { hs with }
  | hearTaken => rw [State.hearTaken_frame]; exact { hs with }
  | retryTaken => rw [State.retryTaken_frame]; exact { hs with }
  | offer => rw [State.offer_frame]; exact { hs with }
  | takeQuery => rw [State.takeQuery_frame]; exact { hs with }
  | _ => exact { hs with }

/-! ### The laws through a step -/

theorem queue_kept : Kept QueueLaw where
  move hmove hu := hu.move hmove
  settle := id
  tickAlways := id
  restarted _ _ _ _ _ _ _ _ := (queueLaw_iff _).2 (QueueOf.empty _ _ _ _)
  started damage levels _ _ := by
    rw [queueLaw_iff]
    unfold State.startWith State.leaveStarting
    split
    · exact QueueOf.empty _ _ _ _
    split
    · exact QueueOf.empty _ _ _ _
    · exact QueueOf.empty _ _ _ _

theorem bus_kept : Kept Controls where
  move hmove hu := hu.move hmove
  settle hu := { hu with }
  tickAlways {u} hu := by
    have hsame : (u.bus.muteMs.map fun n => min Config.muteMs (n + 1)).isSome = u.bus.muteMs.isSome := Option.isSome_map
    refine
      { hu with
        mutes := (Bool.eq_iff_iff.1 hsame).trans hu.mutes, runs := fun h => hsame.trans (hu.runs h)
        rests := fun h => hu.rests (hsame.symm.trans h), timer := ?_, still := fun h => ?_ }
    · change (u.bus.muteMs.map _).all _ = true
      cases u.bus.muteMs with
      | none => rfl
      | some ms => exact decide_eq_true (Nat.min_le_left _ _)
    · have hstill := hu.still h
      have hticked : u.tickAlways.bus = { u.bus with muteMs := u.bus.muteMs.map fun n => min Config.muteMs (n + 1) } := rfl
      rw [hticked, hstill]
      rfl
  restarted _ _ _ _ mode _ hmode _ := .of_reset rfl hmode
  started damage levels _ _ := by
    unfold State.startWith State.leaveStarting
    split
    · exact .of_reset rfl (strapMode_ne_mute _)
    split
    · exact .of_reset rfl (strapMode_ne_mute _)
    · exact .of_reset rfl (strapMode_ne_mute _)

/-- Settles O57: every move keeps the count of each kind of notice in the queue, and the controller's law. -/
theorem stepsKeepTheBusSide : Obligations.StepsKeepTheBusSide := by
  unfold Obligations.StepsKeepTheBusSide
  intro s t hqueue hstep
  refine ⟨queue_kept.step hstep hqueue, fun hbus => ?_⟩
  rw [busLaw_iff] at *
  exact bus_kept.step hstep hbus

end Sys2Proof.Machine
end

section
/-! SUPPORT. The outputs through a step. -/

namespace Sys2Proof.Machine

open Sys2Proof

theorem outputLaw_iff (s : State) : OutputLaw s ↔ s.out.lamp = lampOf s ∧ s.out.holdRequest = holdOf s := by
  obtain ⟨hlamp, hhold⟩ := s.settle_output
  refine and_congr ?_ ?_
  · exact Eq.congr_right hlamp.symm
  · exact (iff_congr Iff.rfl hhold.symm).trans Bool.eq_iff_iff.symm

/-! ### What a step on an empty queue leaves of the outputs' conditions -/

/-- A changed mark changes no wear. -/
theorem anyWearAtLeast_unmark (limit : Nat) (slots : List SlotConfig) (comps : List Component) (i : Nat) (mark : Bool) :
    anyWearAtLeast limit slots (comps.set i { comps.getD i .zero with marked := mark }) =
      anyWearAtLeast limit slots comps := by
  induction slots generalizing comps i with
  | nil => simp [anyWearAtLeast]
  | cons sl slots ih =>
    cases comps with
    | nil => rfl
    | cons c comps =>
      cases i with
      | zero => rfl
      | succ i => exact congrArg (_ || ·) (ih comps i)

theorem State.writeRecord_conditions (s : State) (name : RecordName) :
    lampOf (s.writeRecord name) = lampOf s ∧ holdOf (s.writeRecord name) = holdOf s := by
  cases name with
  | component i =>
    refine ⟨rfl, congrArg (fun wears => s.operating && (s.tracker.sectionState == .jammed || (s.cfg.tHold != 0 && wears))) ?_⟩
    exact anyWearAtLeast_unmark s.cfg.tHold s.cfg.slots s.comps i false
  | order i => exact ⟨rfl, rfl⟩
  | node => exact ⟨rfl, rfl⟩

theorem State.tick_conditions (s : State) : lampOf s.tick = lampOf s ∧ holdOf s.tick = holdOf s := by
  have hreset : (s.resetLine.sample s.pins.reset Config.slowFilterMs).level = s.resetLine.level :=
    LevelLine.sample_level _ _ _
  have hlamp : lampOf s.tickAlways = lampOf s := by
    change (if _ ∨ _ then _ else _) = _
    rw [show s.tickAlways.resetLine.level = s.resetLine.level from hreset]
    rfl
  unfold State.tick
  split
  · dsimp only
    split
    · exact ⟨hlamp, rfl⟩
    · exact ⟨hlamp, rfl⟩
  · exact ⟨rfl, rfl⟩

/-- A step on an empty queue changes none of the conditions of R15 and R16. -/
theorem State.idle_conditions (s : State) : lampOf s.idle = lampOf s ∧ holdOf s.idle = holdOf s := by
  unfold State.idle
  split
  · unfold State.writeDue
    split
    · exact ⟨rfl, rfl⟩
    · exact State.writeRecord_conditions (s.setDue _) _
  split
  · split
    · exact ⟨rfl, rfl⟩
    · exact ⟨rfl, rfl⟩
  · exact s.tick_conditions

theorem State.idle_out (s : State) :
    s.idle.out.lamp = s.out.lamp ∧ s.idle.out.holdRequest = s.out.holdRequest := by
  rcases s.idle_calm with h | h
  · obtain ⟨-, -, -, -, hout⟩ := h.leaves
    exact hout ▸ ⟨rfl, rfl⟩
  · obtain ⟨-, -, -, -, hout⟩ := h.leaves
    exact hout ▸ ⟨rfl, rfl⟩

/-! ### What a command does to the lamp -/

/-- The lamp and its phase from one state to the next: kept, begun afresh with a new pattern, or off at phase 0. -/
def LampMoves (s t : State) : Prop :=
  (t.out.lamp = s.out.lamp ∧ t.out.lampPhase = s.out.lampPhase) ∨ (t.out.lamp ≠ s.out.lamp ∧ t.out.lampPhase = 0) ∨
    t.out.lamp = .off ∧ t.out.lampPhase = 0

theorem State.settle_lampMoves {s u : State} (hout : u.out = s.out) : LampMoves s u.settle := by
  by_cases hsame : lampOf u = u.out.lamp
  · exact .inl ⟨hout ▸ hsame, hout ▸ if_pos hsame⟩
  · exact .inr (.inl ⟨hout ▸ hsame, if_neg hsame⟩)

theorem State.settle_phase_of_reset {u : State} (hout : u.out = State.reset.out) : u.settle.out.lampPhase = 0 := by
  change (if lampOf u = u.out.lamp then u.out.lampPhase else 0) = 0
  rw [hout]
  split <;> rfl

theorem Effect.outputs {C : Nat → Prop} {s t : State} (heffect : Effect C s t) (hs : OutputLaw s) :
    OutputLaw t ∧ LampMoves s t := by
  cases heffect with
  | none => exact ⟨hs, .inl ⟨rfl, rfl⟩⟩
  | taken work => exact ⟨hs, .inl ⟨rfl, rfl⟩⟩
  | moved hmoves =>
    obtain ⟨-, -, -, -, hout⟩ := hmoves.leaves
    exact ⟨State.settle_output _, State.settle_lampMoves hout⟩
  | @restarted u _ power resetLine straps pins mode begun _ =>
    refine ⟨State.settle_output _, .inr (.inr ⟨if_pos (.inr rfl), ?_⟩)⟩
    exact State.settle_phase_of_reset (u := u.restarted power resetLine straps pins mode begun) rfl
  | started damage levels hnode =>
    refine ⟨State.settle_output _, ?_⟩
    have hoff : s.out.lamp = .off := hs.1.trans (if_pos (.inr hnode))
    have hout : (s.startWith (s.account.records.damaged damage) (s.account.records.damaged damage).found levels).out =
        State.reset.out := by
      unfold State.startWith State.leaveStarting
      split
      · rfl
      split <;> rfl
    have hphase := State.settle_phase_of_reset hout
    by_cases hsame : (s.startWith (s.account.records.damaged damage)
        (s.account.records.damaged damage).found levels).settle.out.lamp = s.out.lamp
    · exact .inr (.inr ⟨hsame.trans hoff, hphase⟩)
    · exact .inr (.inl ⟨hsame, hphase⟩)

theorem LampMoves.of_changed {s t : State} (hmoves : LampMoves s t) (hchanged : t.out.lamp ≠ s.out.lamp) :
    t.out.lampPhase = 0 := by
  rcases hmoves with ⟨hsame, -⟩ | ⟨-, hphase⟩ | ⟨-, hphase⟩
  · exact absurd hsame hchanged
  · exact hphase
  · exact hphase

theorem LampMoves.of_kept {s t : State} (hmoves : LampMoves s t) (hkept : t.out.lamp = s.out.lamp)
    (hlit : t.out.lamp ≠ .off) : t.out.lampPhase = s.out.lampPhase := by
  rcases hmoves with ⟨-, hphase⟩ | ⟨hchanged, -⟩ | ⟨hoff, -⟩
  · exact hphase
  · exact absurd hkept hchanged
  · exact absurd hoff hlit

/-- Settles O59: a command's outputs follow the state it leaves, and a step on an empty queue changes none of their
conditions. -/
theorem stepsKeepTheOutputs : Obligations.StepsKeepTheOutputs := by
  unfold Obligations.StepsKeepTheOutputs
  intro s t hs hstep
  cases hpending : s.pending with
  | nil =>
    have ht : s.idle = t := by simpa [step, hpending] using hstep
    subst ht
    obtain ⟨hlamp, hhold⟩ := s.idle_out
    obtain ⟨hlampOf, hholdOf⟩ := s.idle_conditions
    refine ⟨?_, fun h => absurd hlamp h, fun _ _ h => absurd rfl h⟩
    rw [outputLaw_iff] at hs ⊢
    rw [hlamp, hhold, hlampOf, hholdOf]
    exact hs
  | cons command rest =>
    have hexec : exec command (s.withPending rest) = .next t := by simpa [step, hpending] using hstep
    obtain ⟨hlaw, hmoves⟩ := (exec_effect hexec).outputs hs
    exact ⟨hlaw, hmoves.of_changed, fun hkept hlit _ => hmoves.of_kept hkept hlit⟩

end Sys2Proof.Machine
end

section
/-! SUPPORT. The queue of commands, commands that are not taken, power and RESET, and pulses. -/

namespace Sys2Proof.Machine

open Sys2Proof

/-- Settles O1: a step is defined by the front command. -/
theorem frontCommandRuns : Obligations.FrontCommandRuns := by
  unfold Obligations.FrontCommandRuns
  exact fun command rest s => rfl

/-- Settles O60, law by law. -/
theorem resetMeetsEveryLaw : Obligations.ResetMeetsEveryLaw := by
  unfold Obligations.ResetMeetsEveryLaw
  refine ⟨?config, ?width, ?quiet, TrackerLaw.reset, (nomatch ·), (nomatch ·), ?capped, ?planner, (nomatch ·), ?queue,
    (nomatch ·), ?bus, ?output⟩
  case config => exact (configLaw_iff _).2 reset_configs
  case width => exact (widthLaw_iff _).2 reset_widths
  case quiet => exact fun _ => ⟨rfl, rfl, rfl, rfl, rfl⟩
  case capped => decide
  case planner => exact (plannerLaw_iff _).2 (.of_nothing rfl rfl rfl rfl rfl)
  case queue => exact (queueLaw_iff _).2 (QueueOf.empty _ _ _ _)
  case bus => exact (busLaw_iff _).2 (.of_reset rfl (nomatch ·))
  case output => exact (outputLaw_iff _).2 ⟨rfl, rfl⟩

/-! ### Commands that are not taken -/

theorem State.operating_eq_false {s : State} (hnode : s.node ≠ .operating) : s.operating = false := by
  rw [← Bool.not_eq_true, State.operating_iff]
  exact hnode

theorem usableAddr_iff (addr : Addr) : usableAddr addr = true ↔ addr.toNat ≠ 0 ∧ addr.toNat ≠ 63 := by
  rw [usableAddr, Bool.and_eq_true, bne_iff_ne, bne_iff_ne]
  exact and_congr (not_congr BitVec.toNat_inj.symm) (not_congr BitVec.toNat_inj.symm)

theorem State.acceptsSource_iff (s : State) (source : Addr) :
    s.acceptsSource source = true ↔ source.toNat ≠ 0 ∧ source.toNat ≠ 63 ∧ source ≠ s.straps.addr := by
  rw [State.acceptsSource, Bool.and_eq_true, usableAddr_iff, bne_iff_ne, and_assoc]

/-- Settles O3: each of the commands is guarded by OPERATING, and the notices by their source as well. -/
theorem commandsNotTakenChangeNothing : Obligations.CommandsNotTakenChangeNothing := by
  unfold Obligations.CommandsNotTakenChangeNothing
  intro s line latch exit eye a source tag thickness mass phantom count n urgency due hours timed work heard
  refine ⟨fun hnode => ?outside, fun hsource => ?unusable⟩
  case outside =>
    have hidle := State.operating_eq_false hnode
    refine ⟨?events, ?handed⟩
    case events =>
      simp [timed, heard, exec, execMotorStart, execMotorStop, execMaintRise, execMaintFall, execConfirm, execDecline,
        execSamplePeriodEnd, execClaimRefresh, execTransitJam, execBlockedJam, execClearHoldComplete,
        execPendingHoldExpiry, execPulseCounted, execArrival, execDeparture, execEyeClear, execClaimEntryAgeOut,
        execPassageReceived, execJamReceived, execTakenHeard, execClaimReceived, execWithdrawReceived,
        State.takesPassage, State.takesJam, State.plannerHears, hidle]
    case handed =>
      simp [work, exec, execCheckpoint, execStartSurcharge, execJamSurcharge, execPieceCredit, execDistanceCredit,
        execReplace, execRunHourBoundary, State.take, hidle]
  case unusable =>
    have hrefused : s.acceptsSource source = false := by
      rw [← Bool.not_eq_true, State.acceptsSource_iff]
      rintro ⟨hzero, htop, hown⟩
      rcases hsource with h | h | h
      · exact hzero h
      · exact htop h
      · exact hown h
    simp [heard, exec, execPassageReceived, execJamReceived, execTakenHeard, execClaimReceived, execWithdrawReceived,
      State.takesPassage, State.takesJam, State.plannerHears, hrefused]

/-! ### Power and RESET -/

theorem strapMode_eq (straps : Straps) :
    strapMode straps = if straps.addr.toNat = 0 ∨ straps.addr.toNat = 63 then .silenced else .active := by
  unfold strapMode
  by_cases husable : usableAddr straps.addr = true
  · obtain ⟨hzero, htop⟩ := (usableAddr_iff _).1 husable
    rw [if_pos husable, if_neg (not_or.2 ⟨hzero, htop⟩)]
  · rw [if_neg husable, if_pos]
    rw [usableAddr_iff] at husable
    omega

/-- In STARTING the outputs are safe. -/
theorem State.settle_starting {s : State} (hnode : s.node = .starting) (hout : s.out = State.reset.out) :
    s.settle = { s with out := { lamp := .off, lampPhase := 0, holdRequest := false } } := by
  have hlamp : lampOf s = .off := if_pos (.inr hnode)
  have hphase : s.settle.out.lampPhase = 0 := State.settle_phase_of_reset hout
  have hhold : holdOf s = false := by rw [holdOf, State.operating, hnode]; rfl
  rw [State.settle_eq]
  refine congrArg (fun out => { s with out := out }) ?_
  change { lamp := lampOf s, lampPhase := s.settle.out.lampPhase, holdRequest := holdOf s : Outputs } = _
  rw [hlamp, hphase, hhold]

theorem State.settle_cleared (s : State) :
    s.cleared.settle = { s.cleared with out := { lamp := .off, lampPhase := 0, holdRequest := false } } :=
  State.settle_starting rfl rfl

/-- Settles O4: both clear everything volatile and read the straps. -/
theorem startingReadsTheStraps : Obligations.StartingReadsTheStraps := by
  unfold Obligations.StartingReadsTheStraps
  intro straps high s started
  refine ⟨fun hoff => ?on, fun hpower hlow => ?rise, fun hpower => ?powered, fun hhigh => ?high⟩
  case on =>
    have hguard : ¬s.power = true := by rw [hoff]; exact Bool.false_ne_true
    refine (if_neg hguard).trans (congrArg Host.Outcome.next ?_)
    rw [State.settle_cleared]
    simp only [started, ← strapMode_eq]
    rfl
  case rise =>
    have hguard : (s.power && !s.resetLine.level) = true := by rw [hpower, hlow]; rfl
    refine (if_pos hguard).trans (congrArg Host.Outcome.next ?_)
    rw [State.settle_cleared]
    simp only [started, ← strapMode_eq, ← hpower]
    rfl
  case powered => exact if_pos hpower
  case high => exact if_neg (by simp [hhigh])

/-- Settles O6: the state without power is that of the reset with the store, and each write is sealed. -/
theorem powerLossLeavesTheStore : Obligations.PowerLossLeavesTheStore := by
  unfold Obligations.PowerLossLeavesTheStore
  intro begun s after
  refine ⟨fun hoff => ?off, fun hpower => ?on, fun st i c d o n w ws => ?writes⟩
  case off => exact if_neg (by rw [hoff]; exact Bool.false_ne_true)
  case on =>
    refine (if_pos hpower).trans (congrArg Host.Outcome.next ?_)
    exact State.settle_starting rfl rfl
  case writes => exact ⟨rfl, rfl, rfl, rfl, rfl, rfl⟩

/-! ### Pulses -/

/-- Settles O17: the count of the line alone moves. -/
theorem pulsesAreCountedToTheirTop : Obligations.PulsesAreCountedToTheirTop := by
  unfold Obligations.PulsesAreCountedToTheirTop
  intro line s hnode hwidth hline
  obtain ⟨hlength, -⟩ := ((widthLaw_iff s).1 hwidth).lines.counts
  have hoperating := s.operating_iff.2 hnode
  refine ⟨fun hpulses => ⟨_, if_pos ?_, fun other hother => ?_, ?_, rfl⟩, fun hencoder htach => if_neg ?_⟩
  · rw [hoperating, Bool.true_and, Bool.or_eq_true, beq_iff_eq, beq_iff_eq]
    exact hpulses
  · change (s.lines.counts.set line _).getD other 0 = _
    rw [List.getD_eq_getElem?_getD, List.getElem?_set]
    by_cases hsame : line = other
    · subst hsame
      rw [if_pos rfl, if_pos (hlength ▸ hline), if_pos rfl]
      rfl
    · rw [if_neg hsame, if_neg (Ne.symm hsame), List.getD_eq_getElem?_getD]
  · exact List.length_set.trans hlength
  · rw [hoperating, Bool.true_and, Bool.or_eq_true, beq_iff_eq, beq_iff_eq]
    exact not_or.2 ⟨hencoder, htach⟩

end Sys2Proof.Machine
end

section
/-! SUPPORT. The commands of the Piece Tracker. -/

namespace Sys2Proof.Machine

open Sys2Proof

section Edges

variable {s : State}

/-- The clear condition right after a falling edge of MOTOR_RUN (R36). -/
theorem clearCondition_motorStop (s : State) :
    (s.edge .motorRun false).clearCondition = true ↔
      s.lines.levels.entryEye.level = false ∧ s.lines.levels.straightEye.level = false ∧
        (s.cfg.assigned .divertEye = true → s.lines.levels.divertEye.level = false) := by
  rw [State.clearCondition_iff]
  exact and_iff_right rfl

/-- A rising eye breaks the clear condition, and so does a running motor (R36). -/
theorem clearCondition_risen (s : State) {fn : LineFn}
    (hrises : fn = .entryEye ∨ fn = .straightEye ∨ fn = .motorRun ∨ (fn = .divertEye ∧ s.cfg.assigned .divertEye = true)) :
    (s.edge fn true).clearCondition = false := by
  rw [← Bool.not_eq_true, State.clearCondition_iff]
  rintro ⟨hmotor, hentry, hstraight, hdivert⟩
  rcases hrises with rfl | rfl | rfl | ⟨rfl, hassigned⟩
  · cases hentry
  · cases hstraight
  · cases hmotor
  · exact nomatch hdivert hassigned

/-- The clear hold after a look at it (R36): in JAMMED it runs on or starts while the clear condition holds, and else
none runs. -/
def State.reviewed (s : State) : Option Nat :=
  if s.tracker.sectionState = .jammed then (if s.clearCondition then some (s.tracker.clearHold.getD 0) else none)
  else s.tracker.clearHold

theorem State.reviewHold_eq (s : State) :
    s.reviewHold = { s with tracker := { s.tracker with clearHold := s.reviewed } } := by
  by_cases hjammed : s.tracker.sectionState = .jammed
  · rw [State.reviewHold_jammed hjammed, State.reviewed, if_pos hjammed]
  · rw [State.reviewHold_calm hjammed, State.reviewed, if_neg hjammed]

theorem State.reviewed_calm (hcalm : s.tracker.sectionState ≠ .jammed) : s.reviewed = s.tracker.clearHold :=
  if_neg hcalm

theorem State.reviewed_jammed (hjammed : s.tracker.sectionState = .jammed) :
    s.reviewed = if s.clearCondition = true then some (s.tracker.clearHold.getD 0) else none := if_pos hjammed

/-- A risen eye, or a motor that runs, ends the clear hold. -/
theorem State.reviewed_risen {fn : LineFn} (hjammed : s.tracker.sectionState = .jammed)
    (hrises : fn = .entryEye ∨ fn = .straightEye ∨ fn = .motorRun ∨ (fn = .divertEye ∧ s.cfg.assigned .divertEye = true)) :
    (s.edge fn true).reviewed = none := by
  rw [State.reviewed_jammed (s := s.edge fn true) hjammed, clearCondition_risen s hrises]
  rfl

theorem exitFn_rises {exit : ExitPath} (hassigned : s.cfg.assigned (exitFn exit) = true) :
    exitFn exit = .entryEye ∨ exitFn exit = .straightEye ∨ exitFn exit = .motorRun ∨
      (exitFn exit = .divertEye ∧ s.cfg.assigned .divertEye = true) := by
  cases exit with
  | straight => exact .inr (.inl rfl)
  | divert => exact .inr (.inr (.inr ⟨rfl, hassigned⟩))

end Edges

/-! ### EYE_CLEAR and the edges of MOTOR_RUN -/

/-- Settles O12. -/
theorem eyeClearEndsItsBlockedTime : Obligations.EyeClearEndsItsBlockedTime := by
  unfold Obligations.EyeClearEndsItsBlockedTime
  intro eye s hnode hassigned
  have hguard : (s.operating && s.cfg.assigned (eyeFn eye)) = true := by
    rw [s.operating_iff.2 hnode, hassigned]
    rfl
  refine ⟨_, if_pos hguard, ?_⟩
  rw [Tracker.endBlocked_eq, State.reviewHold_eq]
  refine ⟨fun hcalm => State.reviewed_calm hcalm, fun hjammed => ?_, rfl⟩
  refine (State.reviewed_jammed (s := { s.edge (eyeFn eye) false with tracker := _ }) hjammed).trans
    (if_congr ?_ rfl rfl)
  exact State.clearCondition_iff _

/-- The section turns from one state to another, if it is in the first. -/
theorem turnSection_eq (s : State) (before after : SectionState) :
    (if s.tracker.sectionState = before then { s with tracker := { s.tracker with sectionState := after } } else s) =
      { s with
        tracker :=
          { s.tracker with
            sectionState := if s.tracker.sectionState = before then after else s.tracker.sectionState } } := by
  split <;> rfl

theorem SectionState.started (x : SectionState) :
    (if x = .stopped then .running else x) = if x = .jammed then .jammed else .running := by
  cases x <;> rfl

theorem SectionState.stopped_eq (x : SectionState) :
    (if x = .running then .stopped else x) = if x = .jammed then .jammed else .stopped := by
  cases x <;> rfl

/-- Settles O13: RUNNING and STOPPED are the two states outside JAMMED. -/
theorem motorEdgesMoveTheSection : Obligations.MotorEdgesMoveTheSection := by
  unfold Obligations.MotorEdgesMoveTheSection
  intro s hnode
  have hguard := s.operating_iff.2 hnode
  refine ⟨⟨_, if_pos hguard, ?start⟩, ⟨_, if_pos hguard, fun hcalm => ?calm, fun hjammed => ?jammed, ?stop⟩⟩
  case start =>
    have hhold : (s.edge .motorRun true).reviewed =
        if s.tracker.sectionState = .jammed then none else s.tracker.clearHold := by
      split
      next hjammed => exact State.reviewed_risen hjammed (.inr (.inr (.inl rfl)))
      next hcalm => exact State.reviewed_calm (s := s.edge .motorRun true) hcalm
    dsimp only
    rw [turnSection_eq, State.reviewHold_eq, hhold, State.settle_eq]
    dsimp only
    rw [SectionState.started]
    rfl
  all_goals
    dsimp only
    rw [turnSection_eq, State.reviewHold_eq]
  case calm => exact State.reviewed_calm (s := s.edge .motorRun false) hcalm
  case jammed =>
    refine (State.reviewed_jammed (s := s.edge .motorRun false) hjammed).trans (if_congr ?_ rfl rfl)
    exact clearCondition_motorStop s
  case stop =>
    rw [State.settle_eq]
    dsimp only
    rw [SectionState.stopped_eq]
    rfl

/-! ### Jams -/

/-- Settles O14. -/
theorem overdueAgesJamTheSection : Obligations.OverdueAgesJamTheSection := by
  unfold Obligations.OverdueAgesJamTheSection
  intro s hnode jamState aged blocked
  have hoperating := s.operating_iff.2 hnode
  have hjam (cause : JamCause) : (s.jam cause).settle = jamState cause (s.jam cause).settle.out := by
    rw [State.settle_eq, State.jam_eq, jamNotice_eq]
    rfl
  have htransit : s.transitDue = true ↔ s.tracker.sectionState = .running ∧ aged := by
    rw [State.transitDue, Bool.and_eq_true, beq_iff_eq]
    refine and_congr_right fun _ => ?_
    cases hpieces : s.tracker.pieces <;> simp [aged, hpieces]
  have hblocked : s.blockedDue = true ↔ s.tracker.sectionState = .running ∧ blocked := by
    simp only [State.blockedDue, Bool.and_eq_true, Bool.or_eq_true, beq_iff_eq, decide_eq_true_eq, blocked, or_assoc]
  have hguard {due : Bool} : (s.operating && due) = true ↔ due = true := by rw [hoperating, Bool.true_and]
  refine ⟨fun hrunning hage => ⟨_, if_pos (hguard.2 (htransit.2 ⟨hrunning, hage⟩)), hjam _⟩,
    fun hrunning htime => ⟨_, if_pos (hguard.2 (hblocked.2 ⟨hrunning, htime⟩)), hjam _⟩,
    fun hnot => if_neg fun h => ?_, fun hnot => if_neg fun h => ?_⟩
  · obtain ⟨hrunning, hage⟩ := htransit.1 (hguard.1 h)
    exact hnot.elim (· hrunning) (· hage)
  · obtain ⟨hrunning, htime⟩ := hblocked.1 (hguard.1 h)
    exact hnot.elim (· hrunning) (· htime)

/-- Settles O15: the rising eye breaks the clear hold, and CLEAR_HOLD_COMPLETE looks at the condition and the hold. -/
theorem jammedWaitsForItsClearHold : Obligations.JammedWaitsForItsClearHold := by
  unfold Obligations.JammedWaitsForItsClearHold
  intro latch exit s hnode hjammed clear broken
  have hoperating := s.operating_iff.2 hnode
  have hbroken {fn : LineFn} (hrises : fn = .entryEye ∨ fn = .straightEye ∨ fn = .motorRun ∨
      (fn = .divertEye ∧ s.cfg.assigned .divertEye = true)) :
      (s.edge fn true).reviewHold.settle = broken fn (s.edge fn true).reviewHold.settle.out := by
    rw [State.settle_eq, State.reviewHold_eq, State.reviewed_risen hjammed hrises]
    rfl
  have hlasts : Config.clearHoldMs ≤ s.tracker.clearHold.getD 0 ↔ ∃ ms, s.tracker.clearHold = some ms ∧ 2000 ≤ ms := by
    cases s.tracker.clearHold <;> simp
  have hguard : (s.operating && s.tracker.sectionState == .jammed && s.clearCondition &&
      decide (Config.clearHoldMs ≤ s.tracker.clearHold.getD 0)) = true ↔
        clear ∧ ∃ ms, s.tracker.clearHold = some ms ∧ 2000 ≤ ms := by
    rw [hoperating, hjammed, Bool.and_eq_true, Bool.and_eq_true, decide_eq_true_eq, hlasts, State.clearCondition_iff]
    exact and_congr_left fun _ => and_iff_right rfl
  refine ⟨⟨_, (if_pos hoperating).trans (if_pos hjammed), hbroken (.inl rfl)⟩, fun hassigned => ?departure,
    fun hclear hheld => ⟨_, if_pos (hguard.2 ⟨hclear, hheld⟩), rfl⟩, fun hnot => if_neg fun h => ?waits⟩
  case departure =>
    have hdeparts : (s.operating && s.cfg.assigned (exitFn exit)) = true := by rw [hoperating, hassigned]; rfl
    exact ⟨_, (if_pos hdeparts).trans (if_pos hjammed), hbroken (exitFn_rises hassigned)⟩
  case waits =>
    obtain ⟨hclear, ms, hhold, htime⟩ := hguard.1 h
    rcases hnot with hnot | hshort
    · exact hnot hclear
    · exact absurd htime (Nat.not_le.2 (hshort ms hhold))

end Sys2Proof.Machine
end

section
/-! SUPPORT. Arrivals and departures. -/

namespace Sys2Proof.Machine

open Sys2Proof

/-! ### The class latch and the classes of a record -/

/-- Three cells of the latch, the first the lowest, as a class (R7). -/
theorem latch_class (latch : BitVec 6) (start : Nat) :
    latch.extractLsb' start 3 =
      BitVec.ofNat 3
        (4 * (latch.getLsbD (start + 2)).toNat + 2 * (latch.getLsbD (start + 1)).toNat +
          (latch.getLsbD start).toNat) := by
  refine BitVec.eq_of_getLsbD_eq fun i hi => ?_
  rw [BitVec.getLsbD_extractLsb', decide_eq_true hi, Bool.true_and, BitVec.getLsbD_ofNat]
  have hcases : i = 0 ∨ i = 1 ∨ i = 2 := by omega
  rcases hcases with rfl | rfl | rfl <;>
    cases latch.getLsbD (start + 2) <;> cases latch.getLsbD (start + 1) <;> cases hlow : latch.getLsbD start <;>
    simp_all [Nat.testBit]

theorem latchThickness_eq (latch : BitVec 6) :
    latchThickness latch =
      BitVec.ofNat 3 (4 * (latch.getLsbD 2).toNat + 2 * (latch.getLsbD 1).toNat + (latch.getLsbD 0).toNat) :=
  latch_class latch 0

theorem latchMass_eq (latch : BitVec 6) :
    latchMass latch =
      BitVec.ofNat 3 (4 * (latch.getLsbD 5).toNat + 2 * (latch.getLsbD 4).toNat + (latch.getLsbD 3).toNat) :=
  latch_class latch 3

theorem chooseClasses_some (cfg : Configuration) (latch : BitVec 6) (e : InboundEntry) :
    chooseClasses cfg latch (some e) =
      (if cfg.classSource = .default then cfg.defThickness else e.thickness,
        if cfg.classSource = .default then cfg.defMass else e.mass) := by
  unfold chooseClasses
  cases cfg.classSource <;> rfl

theorem chooseClasses_none (cfg : Configuration) (latch : BitVec 6) :
    chooseClasses cfg latch none =
      (if cfg.classSource = .classLines ∧ cfg.assigned (.classLine 0) = true then latchThickness latch
        else cfg.defThickness,
        if cfg.classSource = .classLines ∧ cfg.assigned (.classLine 0) = true then latchMass latch else cfg.defMass) := by
  unfold chooseClasses Configuration.classLinesAssigned
  cases cfg.classSource with
  | upstream => rfl
  | classLines => cases cfg.assigned (.classLine 0) <;> rfl
  | default => rfl

/-! ### ARRIVAL -/

/-- The tracker after the sweep of an arrival (R23). -/
def State.swept (s : State) : Tracker := { s.tracker with entryBlocked := 0 }.sweep s.cfg.tHand

theorem State.swept_missing (s : State) :
    s.swept.missing =
      min 65535
        (s.tracker.missing +
          (s.tracker.inbound.length - (s.tracker.inbound.filter fun e => decide (e.age ≤ s.cfg.tHand)).length)) :=
  congrArg (satAdd Config.countTop s.tracker.missing) (stale_count _ _)

theorem Tracker.enter_tagged {t : Tracker} {e : InboundEntry} {rest : List InboundEntry}
    (hinbound : t.inbound = e :: rest) (cfg : Configuration) (latch : BitVec 6) (own : Tag) :
    t.enter cfg latch own =
      { t with
        inbound := rest
        pieces := t.pieces ++
          [{ tag := e.tag, thickness := if cfg.classSource = .default then cfg.defThickness else e.thickness
             mass := if cfg.classSource = .default then cfg.defMass else e.mass, age := 0 }] } := by
  simp only [Tracker.enter, hinbound, chooseClasses_some]

theorem Tracker.enter_untagged {t : Tracker} (hinbound : t.inbound = []) (cfg : Configuration) (latch : BitVec 6)
    (own : Tag) :
    t.enter cfg latch own =
      { t with
        tagSeq := nextTagSeq t.tagSeq
        untagged := satAdd Config.countTop t.untagged 1
        pieces := t.pieces ++
          [{ tag := own, thickness := (chooseClasses cfg latch none).1, mass := (chooseClasses cfg latch none).2
             age := 0 }] } := by
  simp only [Tracker.enter, hinbound]

/-- The fields of a tracker that a new piece record leaves (R23). -/
theorem Tracker.enter_frame (t : Tracker) (cfg : Configuration) (latch : BitVec 6) (own : Tag) :
    t.enter cfg latch own =
      { t with
        inbound := (t.enter cfg latch own).inbound, pieces := (t.enter cfg latch own).pieces
        tagSeq := (t.enter cfg latch own).tagSeq, untagged := (t.enter cfg latch own).untagged } := by
  unfold Tracker.enter
  split <;> rfl

theorem exec_arrival {s : State} (hnode : s.node = .operating) (hcalm : s.tracker.sectionState ≠ .jammed)
    (latch : BitVec 6) : exec (.arrival latch) s = .next ((s.edge .entryEye true).arrive latch).settle :=
  (if_pos (s.operating_iff.2 hnode)).trans (if_neg hcalm)

/-- The jam actions on a state that differs from another in nothing the transmit queue reads. -/
theorem State.jam_agree {s u : State} {clear : Bool} (cause : JamCause) (hclear : u.clearCondition = clear)
    (hstraps : u.straps = s.straps) (hbus : u.bus = s.bus) (hplanner : u.planner = s.planner)
    (hqueue : u.queue = s.queue) (hquery : u.query = s.query) :
    u.jam cause =
      { u.overlay
          (s.offer
            { priority := 0
              body := .jam cause u.tracker.pieces.length ((u.tracker.pieces.map fun p => p.tag).headD 0) }) with
        tracker := u.tracker.jammed clear, handed := u.handed ++ [.jamSurcharge] } := by
  rw [State.jam_eq, jamNotice_eq, State.offer_agree _ hstraps hbus hplanner hqueue hquery, hclear]

/-- The eighth place taken, an arrival is a jam (R23, R34). -/
theorem arrive_crowded {s : State} (hfull : s.tracker.pieces.length = 8) (latch : BitVec 6) :
    (s.edge .entryEye true).arrive latch =
      { s.offer { priority := 0, body := .jam .crowded 8 ((s.tracker.pieces.map fun p => p.tag).headD 0) } with
        tracker := { s.swept with inbound := s.swept.inbound.drop 1 }.jammed false
        lines := (s.edge .entryEye true).lines
        pins := (s.edge .entryEye true).pins
        handed := s.handed ++ [.jamSurcharge] } := by
  have hjam := State.jam_agree (s := s)
    (u := { s.edge .entryEye true with tracker := { s.swept with inbound := s.swept.inbound.drop 1 } }) .crowded
    (clearCondition_risen s (fn := .entryEye) (.inl rfl)) rfl rfl rfl rfl rfl
  refine (if_pos (show Config.piecePlaces ≤ s.tracker.pieces.length from hfull.ge)).trans (hjam.trans ?_)
  rw [← hfull, State.offer_frame s { priority := 0, body := .jam .crowded s.tracker.pieces.length _ }]
  rfl

/-- Settles O10: with room the swept tracker takes the record up, and at eight it jams. -/
theorem arrivalMakesAPieceRecord : Obligations.ArrivalMakesAPieceRecord := by
  unfold Obligations.ArrivalMakesAPieceRecord
  intro latch s hnode hcalm kept oldest
  have hexec := exec_arrival hnode hcalm latch
  refine ⟨fun hroom => ⟨_, hexec, ?room⟩, fun hfull => ⟨_, hexec, ?full⟩⟩
  case room =>
    have henter : (s.edge .entryEye true).arrive latch =
        { s.edge .entryEye true with tracker := s.swept.enter s.cfg latch s.ownTag } :=
      if_neg (Nat.not_le.2 hroom)
    rw [henter]
    refine ⟨fun e rest hkept => ?tagged, fun hkept => ?untagged, ?missing, ?frame⟩
    case tagged =>
      have hinbound : s.swept.inbound = e :: rest := hkept
      rw [Tracker.enter_tagged hinbound]
      exact ⟨rfl, rfl, rfl, rfl⟩
    case untagged =>
      have hinbound : s.swept.inbound = [] := hkept
      rw [Tracker.enter_untagged hinbound, chooseClasses_none, latchThickness_eq, latchMass_eq]
      exact ⟨hinbound, rfl, rfl, rfl⟩
    case missing =>
      rw [State.settle_tracker, Tracker.enter_frame]
      exact s.swept_missing
    case frame =>
      rw [State.settle_eq, Tracker.enter_frame]
      rfl
  case full =>
    rw [arrive_crowded hfull, State.settle_eq]
    simp only [Tracker.jammed, s.swept_missing]
    rfl

/-! ### DEPARTURE -/

theorem announces_iff (cfg : Configuration) (exit : ExitPath) :
    announces cfg exit = true ↔ exit = .straight ∨ cfg.announceDivert = true := by
  cases exit <;> simp [announces]

theorem State.overlay_self {s u : State} (hplanner : u.planner = s.planner) (hqueue : u.queue = s.queue)
    (hquery : u.query = s.query) : u.overlay s = u := by
  unfold State.overlay
  rw [← hplanner, ← hqueue, ← hquery]

section Depart

variable {s : State} {exit : ExitPath}

/-- Handing a notice over, or not, changes what handing one over can change. -/
theorem offered_overlay (b : Prop) [Decidable b] (n : Notice) :
    (if b then s.offer n else s) = s.overlay (if b then s.offer n else s) := by
  split
  · exact s.offer_frame n
  · rfl

/-- The PASSAGE of a departure, if its exit is announced (R29). -/
theorem State.announce_agree {u : State} (hstraps : u.straps = s.straps) (hbus : u.bus = s.bus)
    (hplanner : u.planner = s.planner) (hqueue : u.queue = s.queue) (hquery : u.query = s.query) (hcfg : u.cfg = s.cfg)
    (tag : Tag) (thickness mass : PieceClass) (phantom : Bool) :
    u.announce tag thickness mass exit phantom =
      u.overlay
        (if exit = .straight ∨ s.cfg.announceDivert = true then
          s.offer { priority := 0, body := .passage tag thickness mass exit phantom }
        else s) := by
  unfold State.announce passageNotice
  rw [hcfg]
  refine (if_congr (announces_iff s.cfg exit) rfl rfl).trans ?_
  split
  · exact State.offer_agree _ hstraps hbus hplanner hqueue hquery
  · exact (State.overlay_self hplanner hqueue hquery).symm

theorem exec_departure (hnode : s.node = .operating) (hcalm : s.tracker.sectionState ≠ .jammed)
    (hassigned : s.cfg.assigned (exitFn exit) = true) :
    exec (.departure exit) s = .next ((s.edge (exitFn exit) true).depart exit).settle := by
  have hguard : (s.operating && s.cfg.assigned (exitFn exit)) = true := by
    rw [s.operating_iff.2 hnode, hassigned]
    rfl
  exact (if_pos hguard).trans (if_neg hcalm)

/-- The state after a departure that found a record, before a jam: `told` has the PASSAGE handed over. -/
def State.departed (s told : State) (exit : ExitPath) (p : PieceRecord) (rest : List PieceRecord) : State :=
  { (s.edge (exitFn exit) true).overlay told with
    tracker :=
      { s.tracker with
        pieces := rest
        departed := satAdd Config.countTop s.tracker.departed 1
        straightBlocked := if exit = .straight then 0 else s.tracker.straightBlocked
        divertBlocked := if exit = .divert then 0 else s.tracker.divertBlocked }
    handed := s.handed ++ [.pieceCredit p.thickness p.mass exit false] }

theorem depart_real {p : PieceRecord} {rest : List PieceRecord} (hpieces : s.tracker.pieces = p :: rest) :
    let gone := s.departed
      (if exit = .straight ∨ s.cfg.announceDivert = true then
        s.offer { priority := 0, body := .passage p.tag p.thickness p.mass exit false }
      else s) exit p rest
    (s.edge (exitFn exit) true).depart exit = if gone.transitDue then gone.jam .transit else gone := by
  intro gone
  have htold := State.announce_agree (s := s) (exit := exit)
    (u := { s.edge (exitFn exit) true with
      tracker := { s.tracker.startBlocked exit with
        pieces := rest, departed := satAdd Config.countTop (s.tracker.startBlocked exit).departed 1 } })
    rfl rfl rfl rfl rfl rfl p.tag p.thickness p.mass false
  have hgone := congrArg (State.hand · [.pieceCredit p.thickness p.mass exit false]) htold
  rw [show State.hand (State.overlay _ _) _ = gone by rw [Tracker.startBlocked_eq]; rfl] at hgone
  rw [← hgone]
  unfold State.depart
  dsimp only [State.edge_tracker]
  rw [hpieces]
  rfl

theorem transitDue_departed (told : State) (p : PieceRecord) (rest : List PieceRecord) :
    (s.departed told exit p rest).transitDue = true ↔
      s.tracker.sectionState = .running ∧ (rest.head?.any fun q => decide (s.cfg.tTransit < q.age)) = true := by
  rw [State.transitDue, Bool.and_eq_true]
  refine and_congr beq_iff_eq ?_
  cases rest <;> exact Iff.rfl

theorem depart_phantom (hpieces : s.tracker.pieces = []) :
    (s.edge (exitFn exit) true).depart exit =
      { (s.edge (exitFn exit) true).overlay
          (if exit = .straight ∨ s.cfg.announceDivert = true then
            s.offer
              { priority := 0
                body :=
                  .passage (BitVec.ofNat 16 (s.straps.addr.toNat * 1024 + s.tracker.tagSeq)) s.cfg.defThickness
                    s.cfg.defMass exit true }
          else s) with
        tracker :=
          { s.tracker with
            phantom := satAdd Config.countTop s.tracker.phantom 1
            tagSeq :=
              if exit = .straight ∨ s.cfg.announceDivert = true then nextTagSeq s.tracker.tagSeq else s.tracker.tagSeq
            straightBlocked := if exit = .straight then 0 else s.tracker.straightBlocked
            divertBlocked := if exit = .divert then 0 else s.tracker.divertBlocked }
        handed := s.handed ++ [.pieceCredit s.cfg.defThickness s.cfg.defMass exit true] } := by
  have htold := State.announce_agree (s := s) (exit := exit)
    (u := { s.edge (exitFn exit) true with
      tracker := { s.tracker.startBlocked exit with
        phantom := satAdd Config.countTop (s.tracker.startBlocked exit).phantom 1
        tagSeq := if announces s.cfg exit then nextTagSeq (s.tracker.startBlocked exit).tagSeq
          else (s.tracker.startBlocked exit).tagSeq } })
    rfl rfl rfl rfl rfl rfl s.ownTag s.cfg.defThickness s.cfg.defMass true
  have hgone := congrArg (State.hand · [.pieceCredit s.cfg.defThickness s.cfg.defMass exit true]) htold
  refine Eq.trans ?_ (hgone.trans ?_)
  · unfold State.depart
    dsimp only [State.edge_tracker]
    rw [hpieces]
    cases exit <;> rfl
  · have htag (a b : Nat) : (if announces s.cfg exit = true then a else b) =
        if exit = .straight ∨ s.cfg.announceDivert = true then a else b := if_congr (announces_iff _ _) rfl rfl
    have hown : s.ownTag = BitVec.ofNat 16 (s.straps.addr.toNat * 1024 + s.tracker.tagSeq) := rfl
    rw [htag, hown, Tracker.startBlocked_eq]
    rfl

end Depart

/-- Settles O11: the record found or the phantom, its credit and its PASSAGE, and the jam of an overdue new head. -/
theorem departureRemovesTheOldestRecord : Obligations.DepartureRemovesTheOldestRecord := by
  unfold Obligations.DepartureRemovesTheOldestRecord
  intro exit s hnode
  refine ⟨fun hunassigned => if_neg (by simp [hunassigned]), fun hcalm hassigned => ?_⟩
  intro announced
  have hexec := exec_departure hnode hcalm hassigned
  refine ⟨fun p rest hpieces => ?found, fun hpieces => ?phantom⟩
  case found =>
    intro overdue credit told departed
    have htold : told = s.overlay told := offered_overlay _ _
    have hdepart := depart_real (exit := exit) hpieces
    refine ⟨fun hnot => ⟨_, hexec, ?calm⟩, fun hoverdue => ⟨_, hexec, ?jams⟩⟩
    case calm =>
      rw [hdepart, if_neg fun h => hnot ((transitDue_departed _ _ _).1 h), State.settle_eq, htold]
      rfl
    case jams =>
      rw [hdepart, if_pos ((transitDue_departed _ _ _).2 hoverdue)]
      have hjam : (s.departed told exit p rest).jam .transit =
          { (s.departed told exit p rest).overlay
              (told.offer
                { priority := 0, body := .jam .transit rest.length ((rest.map fun q => q.tag).headD 0) }) with
            tracker := (s.departed told exit p rest).tracker.jammed false
            handed := (s.departed told exit p rest).handed ++ [.jamSurcharge] } :=
        State.jam_agree (s := told) (u := s.departed told exit p rest) .transit
          (clearCondition_risen s (exitFn_rises hassigned)) (congrArg State.straps htold).symm
          (congrArg State.bus htold).symm rfl rfl rfl
      have hoffered := State.offer_overlay s told
        { priority := 0, body := .jam .transit rest.length ((rest.map fun q => q.tag).headD 0) }
        (congrArg State.straps htold).symm (congrArg State.bus htold).symm
      rw [← htold] at hoffered
      rw [show (s.departed _ exit p rest).jam .transit = _ from hjam, State.settle_eq, hoffered]
      simp only [State.departed, List.append_assoc, List.singleton_append]
      rfl
  case phantom =>
    refine ⟨_, hexec, ?_⟩
    rw [depart_phantom hpieces, State.settle_eq, offered_overlay announced]
    rfl

end Sys2Proof.Machine
end

section
/-! SUPPORT. Surcharges, wear from 0 to the cap, and steady slip. -/

namespace Sys2Proof.Machine

open Sys2Proof

/-! ### Surcharges -/

theorem ticksPerPassage_eq : Config.ticksPerPassage = 2 ^ 28 := by norm_num

/-- Settles O22: each surcharge credits its increment to every present record. -/
theorem surchargesChargeEveryRecord : Obligations.SurchargesChargeEveryRecord := by
  unfold Obligations.SurchargesChargeEveryRecord
  intro count s hnode hconfig hwidth htable hcapped
  have hoperating := s.operating_iff.2 hnode
  have hcredited := State.credited_creditAll hnode hconfig hwidth htable hcapped
  refine ⟨⟨_, if_pos hoperating, hcredited _ _⟩, ⟨_, if_pos hoperating, hcredited _ _⟩, ⟨_, if_pos hoperating, ?_⟩⟩
  rw [← ticksPerPassage_eq]
  exact hcredited _ _

/-! ### Wear -/

theorem wearOf_eq (account life : Nat) : wearOf account life = 1000 * account / (life * 2 ^ 28) := by
  rw [wearOf, lifeTicks, ticksPerPassage_eq]

theorem wearOf_zero (life : Nat) : wearOf 0 life = 0 := by rw [wearOf_eq, Nat.mul_zero, Nat.zero_div]

theorem wearOf_mono (life : Nat) {a b : Nat} (hle : a ≤ b) : wearOf a life ≤ wearOf b life := by
  rw [wearOf_eq, wearOf_eq]
  exact Nat.div_le_div_right (Nat.mul_le_mul_left 1000 hle)

theorem wearOf_rated {life : Nat} (hlife : 1 ≤ life) : wearOf (life * 2 ^ 28) life = 1000 := by
  rw [wearOf_eq, Nat.mul_div_cancel]
  exact Nat.mul_pos hlife (by norm_num)

theorem wearOf_cap {life : Nat} (hlife : 1 ≤ life) : wearOf (2 ^ 29 * life - 1) life = 1999 := by
  rw [wearOf_eq]
  refine Nat.div_eq_of_lt_le ?_ ?_ <;> omega

/-- Settles O24. -/
theorem wearRunsFromZeroToItsCap : Obligations.WearRunsFromZeroToItsCap := by
  unfold Obligations.WearRunsFromZeroToItsCap
  exact fun life hlife =>
    ⟨wearOf_zero life, wearOf_rated hlife, wearOf_cap hlife, fun _ _ => wearOf_mono life,
      fun _ hcap => (wearOf_mono life hcap).trans_eq (wearOf_cap hlife), fun a => wearOf_eq a life⟩

/-! ### Slip under steady counts -/

section Steady

variable {encoder ratio tach start : Nat}

/-- The slip after a number of periods of the same counts. -/
def steadySlip (encoder ratio tach start : Nat) (n : Nat) : Nat :=
  Nat.repeat (fun slip => nextSlip slip encoder ratio tach) n start

theorem steadySlip_succ (n : Nat) :
    steadySlip encoder ratio tach start (n + 1) = nextSlip (steadySlip encoder ratio tach start n) encoder ratio tach :=
  rfl

/-- A slip that a period keeps is kept for good. -/
theorem steadySlip_fixed (hfixed : nextSlip start encoder ratio tach = start) (n : Nat) :
    steadySlip encoder ratio tach start n = start := by
  induction n with
  | zero => rfl
  | succ n ih => rw [steadySlip_succ, ih, hfixed]

theorem nextSlip_smoothed (slip : Nat) (hcounts : 32 ≤ encoder * ratio / 256) :
    nextSlip slip encoder ratio tach = (3 * slip + slipSample (expectedCount encoder ratio) tach) / 4 :=
  if_neg (Nat.not_lt.2 hcounts)

/-- A slip above the sample falls by at least 1 in each period, and not below it (R44). -/
theorem steadySlip_falls (hcounts : 32 ≤ encoder * ratio / 256)
    (habove : slipSample (expectedCount encoder ratio) tach ≤ start) (n : Nat) :
    slipSample (expectedCount encoder ratio) tach ≤ steadySlip encoder ratio tach start n ∧
      steadySlip encoder ratio tach start n ≤
        slipSample (expectedCount encoder ratio) tach + (start - slipSample (expectedCount encoder ratio) tach - n) := by
  induction n with
  | zero => exact ⟨habove, (Nat.add_sub_cancel' habove).ge⟩
  | succ n ih =>
    rw [steadySlip_succ, nextSlip_smoothed _ hcounts]
    omega

/-- A slip more than 3 below the sample rises by at least 1 in each period, and not above 3 below it (R44). -/
theorem steadySlip_rises (hcounts : 32 ≤ encoder * ratio / 256)
    (hbelow : start + 3 ≤ slipSample (expectedCount encoder ratio) tach) (n : Nat) :
    steadySlip encoder ratio tach start n + 3 ≤ slipSample (expectedCount encoder ratio) tach ∧
      slipSample (expectedCount encoder ratio) tach ≤
        steadySlip encoder ratio tach start n + 3 +
          (slipSample (expectedCount encoder ratio) tach - (start + 3) - n) := by
  induction n with
  | zero => exact ⟨hbelow, (Nat.add_sub_cancel' hbelow).ge⟩
  | succ n ih =>
    rw [steadySlip_succ, nextSlip_smoothed _ hcounts]
    omega

theorem steadySlip_le (hstart : start ≤ 1000) (n : Nat) : steadySlip encoder ratio tach start n ≤ 1000 := by
  induction n with
  | zero => exact hstart
  | succ n ih => exact nextSlip_le ih encoder ratio tach

end Steady

/-- Settles O25: the distance to the sample, or to 3 below it, falls with each period. -/
theorem steadySlipSettles : Obligations.SteadySlipSettles := by
  unfold Obligations.SteadySlipSettles
  intro encoder ratio tach start hstart q smoothed
  refine ⟨fun hfew m => steadySlip_fixed (if_pos hfew) m, fun hcounts => ⟨fun habove => ?falls, fun hbelow => ?rises,
    fun habove hbelow m => steadySlip_fixed ?stays m, slipSample_le _ _, fun m => steadySlip_le hstart m⟩⟩
  case falls =>
    refine ⟨start - q, fun m hm => ?_⟩
    obtain ⟨hlow, hhigh⟩ := steadySlip_falls hcounts habove m
    change steadySlip encoder ratio tach start m = slipSample (expectedCount encoder ratio) tach
    change start - slipSample (expectedCount encoder ratio) tach ≤ m at hm
    omega
  case rises =>
    refine ⟨q - (start + 3), fun m hm => ?_⟩
    obtain ⟨hlow, hhigh⟩ := steadySlip_rises hcounts hbelow m
    change steadySlip encoder ratio tach start m + 3 = slipSample (expectedCount encoder ratio) tach
    change slipSample (expectedCount encoder ratio) tach - (start + 3) ≤ m at hm
    omega
  case stays =>
    change start ≤ slipSample (expectedCount encoder ratio) tach at habove
    change slipSample (expectedCount encoder ratio) tach ≤ start + 3 at hbelow
    rw [nextSlip_smoothed _ hcounts]
    omega

end Sys2Proof.Machine
end

section
/-! SUPPORT. REPLACE and the presses. -/

namespace Sys2Proof.Machine

open Sys2Proof

/-! ### The replaced record -/

theorem Configuration.slot_present_lt {c : Configuration} {n : Nat} (hpresent : (c.slot n).present = true) :
    n < c.slots.length := by
  by_contra hbeyond
  rw [Configuration.slot, List.getD_eq_default _ _ (Nat.not_lt.1 hbeyond)] at hpresent
  cases hpresent

theorem Configuration.slot_mem {c : Configuration} {n : Nat} (hn : n < c.slots.length) : c.slot n ∈ c.slots := by
  rw [Configuration.slot, List.getD_eq_getElem _ _ hn]
  exact List.getElem_mem hn

/-- A derivation changes wear, hours, urgency and band only. -/
theorem Component.derive_frame (cfg : Configuration) (sl : SlotConfig) (c : Component) :
    c.derive cfg sl =
      { c with
        wear := (c.derive cfg sl).wear, hours := (c.derive cfg sl).hours, urgency := (c.derive cfg sl).urgency
        band := (c.derive cfg sl).band } := rfl

/-- The hours of an account of 0 (R85). -/
theorem hoursOf_of_account_zero {life : Nat} (hlife : 1 ≤ life) {d : DynRecord} (haccount : d.account = 0) :
    hoursOf life d =
      if d.rateValid = false ∨ d.rate = 0 then 65535 else min 65535 (life * 2 ^ 28 / d.rate) := by
  have hlasts : ¬lifeTicks life ≤ d.account := by
    rw [haccount, lifeTicks, Nat.not_le]
    exact Nat.mul_pos hlife (by norm_num)
  split
  next hnone => exact hoursOf_of_no_forecast hlasts hnone
  next hrate =>
    rw [hoursOf_of_forecast hlasts hrate, haccount, lifeTicks, ticksPerPassage_eq]
    rfl

/-- The band of an unworn record (R71, R87). -/
theorem bandOf_unworn {hz tWatch hours : Nat} (hwatch : 1 ≤ tWatch) :
    bandOf tWatch 0 (urgencyOf hz tWatch 0 hours) = if hours < hz then .due else .normal := by
  split
  next hdue => exact (bandOf_urgencyOf_eq_due_iff hz tWatch 0 hours).2 ⟨by decide, hdue⟩
  next hlater =>
    have hurgency := urgencyOf_lt_of_beyond (tWatch := tWatch) (wear := 0) (by decide) (Nat.not_lt.1 hlater)
    rw [bandOf, if_neg (by decide), if_neg (Nat.not_le.2 hurgency), if_neg (Nat.not_le.2 hwatch)]

/-- The record after a REPLACE (R74), field by field. -/
theorem Component.replaced_eq {cfg : Configuration} {sl : SlotConfig} (hlife : 1 ≤ sl.life) (hwatch : 1 ≤ cfg.tWatch)
    (c : Component) :
    c.replaced cfg sl =
      { c with
        dyn :=
          { c.dyn with
            account := 0, slip := 0, hourDelta := 0, lost := false
            serviceCount := min 255 (c.dyn.serviceCount + 1) }
        wear := 0
        hours :=
          if c.dyn.rateValid = false ∨ c.dyn.rate = 0 then 65535 else min 65535 (sl.life * 2 ^ 28 / c.dyn.rate)
        urgency := urgencyOf cfg.hz cfg.tWatch 0 (c.replaced cfg sl).hours
        band := if (c.replaced cfg sl).hours < cfg.hz then .due else .normal
        marked := true } := by
  have hreplaced : c.replaced cfg sl = Component.derive cfg sl
      { c with
        dyn :=
          { c.dyn with
            account := 0, slip := 0, hourDelta := 0, lost := false
            serviceCount := satAdd 255 c.dyn.serviceCount 1 }
        marked := true } := rfl
  obtain ⟨-, hwear, hhours, hurgency, hband⟩ := Component.derive_fields cfg sl
    { c with
      dyn :=
        { c.dyn with
          account := 0, slip := 0, hourDelta := 0, lost := false, serviceCount := satAdd 255 c.dyn.serviceCount 1 }
      marked := true }
  rw [← hreplaced] at hwear hhours hurgency hband
  rw [wearOf_zero] at hwear
  rw [hwear] at hurgency
  rw [hwear, hurgency, bandOf_unworn hwatch] at hband
  rw [hoursOf_of_account_zero hlife rfl] at hhours
  rw [← hhours, ← hurgency, ← hband, hreplaced]
  refine (Component.derive_frame _ _ _).trans ?_
  rw [← hreplaced, hwear]
  rfl

/-! ### REPLACE -/

theorem State.setComps_offer (s : State) (comps : List Component) (n : Notice) :
    (s.setComps comps).offer n = (s.setComps comps).overlay (s.offer n) :=
  State.offer_agree n rfl rfl rfl rfl rfl

theorem State.take_offer (s : State) (work : Instr) (n : Notice) :
    (s.take work).offer n = (s.take work).overlay (s.offer n) :=
  State.offer_agree n rfl rfl rfl rfl rfl

/-- A REPLACE of a present slot changes the table, the pending values, and what its ALERT changes. -/
theorem State.replaceSlot_eq {s : State} {n : Nat} (hpresent : (s.cfg.slot n).present = true) :
    s.replaceSlot n =
      { s.offer (alertOf n ((s.comp n).replaced s.cfg (s.cfg.slot n))) with
        comps := s.comps.set n ((s.comp n).replaced s.cfg (s.cfg.slot n))
        forecast :=
          { s.forecast with
            pending := nodeForecast s.cfg.slots (s.comps.set n ((s.comp n).replaced s.cfg (s.cfg.slot n))) } } := by
  rw [State.replaceSlot_present hpresent, State.setComps_offer, State.offer_frame s]
  rfl

theorem exec_replace_present {s : State} (hnode : s.node = .operating) {n : Nat}
    (hpresent : (s.cfg.slot n).present = true) :
    exec (.replace n) s = .next ((s.take (.replace n)).replaceSlot n).settle := by
  refine if_pos ?_
  rw [s.operating_iff.2 hnode, hpresent]
  rfl

/-- Settles O27: the record of `Component.replaced`, in its slot alone. -/
theorem replaceStartsTheAccountAgain : Obligations.ReplaceStartsTheAccountAgain := by
  unfold Obligations.ReplaceStartsTheAccountAgain
  intro n s hnode hconfig hwidth
  have hslots := slots_length_of_configLaw hconfig
  have hlength := (comps_of_widthLaw hwidth).1
  refine ⟨fun hpresent => ?present, fun habsent => if_neg (by simp [habsent])⟩
  case present =>
    intro life old
    have hn := Configuration.slot_present_lt hpresent
    obtain ⟨-, -, ⟨hwatch, -⟩, -, -, -, -, -, -, -, -, -, -, -, hinRange⟩ := ((configLaw_iff s).1 hconfig).cfg
    obtain ⟨hlife, -⟩ := hinRange _ (Configuration.slot_mem hn)
    have hreplaced := Component.replaced_eq (cfg := s.cfg) hlife hwatch (s.comp n)
    have hcomp (i : Nat) := set_comp s n ((s.comp n).replaced s.cfg (s.cfg.slot n)) i
    have heq := State.replaceSlot_eq (s := s.take (.replace n)) hpresent
    have hcomps : ((s.take (.replace n)).replaceSlot n).comps =
        s.comps.set n ((s.comp n).replaced s.cfg (s.cfg.slot n)) := by rw [heq]; rfl
    have hat (i : Nat) : ((s.take (.replace n)).replaceSlot n).settle.comp i =
        if i = n ∧ i < s.comps.length then (s.comp n).replaced s.cfg (s.cfg.slot n) else s.comp i := by
      rw [State.comp, State.settle_comps, hcomps, hcomp]
    have hself : ((s.take (.replace n)).replaceSlot n).settle.comp n = (s.comp n).replaced s.cfg (s.cfg.slot n) := by
      rw [hat, if_pos ⟨rfl, hlength ▸ hslots ▸ hn⟩]
    refine ⟨_, exec_replace_present hnode hpresent, ?_, fun i hi => ?_, ?_, ?_, ?_⟩
    · rw [hself]
      exact hreplaced
    · rw [hat, if_neg fun h => hi h.1]
    · rw [State.settle_comps, hcomps, List.length_set]
    · rw [State.settle_comps, State.settle_forecast, hcomps, heq]
      exact nodeForecast_of _ _
    · have hwear : ((s.comp n).replaced s.cfg (s.cfg.slot n)).wear = 0 := by rw [hreplaced]
      rw [hself, State.settle_comps, State.settle_forecast, hcomps, State.settle_eq, heq, State.take_offer]
      rw [← hwear, State.offer_frame s { priority := _, body := .alert n _ _ _ }]
      rfl

/-! ### CONFIRM and DECLINE -/

/-- Closing the head order changes the ring, its marks, the head and the open count, the flag and the node mark. -/
theorem State.closeHead_eq (s : State) (outcome : OrderStatus) :
    s.closeHead outcome =
      { s with
        orders :=
          { s.orders with
            ring :=
              s.orders.ring.set s.orders.head
                { s.orders.at s.orders.head with status := outcome, windowAtClose := s.planner.windowCount }
            marks := s.orders.marks.set s.orders.head true
            head := (s.orders.head + 1) % 32
            openCount := s.orders.openCount - 1 }
        comps :=
          s.comps.set (s.orders.at s.orders.head).slot { s.comp (s.orders.at s.orders.head).slot with openOrder := false }
        account := { s.account with nodeMarked := true } } := rfl

/-- A choice asked for does not touch a REPLACE. -/
theorem State.countChoice_replaceSlot (s : State) (slot : Nat) :
    s.countChoice.replaceSlot slot = (s.replaceSlot slot).countChoice := by
  cases hpresent : (s.cfg.slot slot).present with
  | true =>
    rw [State.replaceSlot_present hpresent, State.replaceSlot_present (s := s.countChoice) hpresent]
    let replaced := s.setComps (s.comps.set slot ((s.comp slot).replaced s.cfg (s.cfg.slot slot)))
    refine (State.offer_agree (s := replaced) (u := replaced.countChoice) _ rfl rfl rfl rfl rfl).trans ?_
    exact (congrArg State.countChoice (State.offer_frame replaced _)).symm
  | false => rw [State.replaceSlot_absent hpresent, State.replaceSlot_absent (s := s.countChoice) hpresent]

theorem State.replaceSlot_choices (s : State) (slot : Nat) : (s.replaceSlot slot).choices = s.choices := by
  cases hpresent : (s.cfg.slot slot).present with
  | true =>
    rw [State.replaceSlot_present hpresent, State.offer_frame]
    rfl
  | false => rw [State.replaceSlot_absent hpresent]

theorem State.listWorking_iff (s : State) :
    s.listWorking = true ↔ s.planner.window = .servicing ∧ 0 < s.orders.openCount := by
  rw [State.listWorking, Bool.and_eq_true, beq_iff_eq, decide_eq_true_eq]

/-- A REPLACE on a state whose oldest outstanding work it is runs on the state without it. -/
theorem exec_replace_front {s : State} (hnode : s.node = .operating) (slot : Nat) :
    exec (.replace slot) { s with handed := .replace slot :: s.handed } =
      .next (if (s.cfg.slot slot).present = true then (s.replaceSlot slot).settle else s) := by
  have htaken : { s with handed := .replace slot :: s.handed }.take (.replace slot) = s := by
    simp [State.take]
  cases hpresent : (s.cfg.slot slot).present with
  | true =>
    refine (exec_replace_present (s := { s with handed := .replace slot :: s.handed }) hnode hpresent).trans ?_
    rw [htaken]
    rfl
  | false =>
    refine (if_neg ?_).trans (congrArg Host.Outcome.next htaken)
    rw [hpresent, Bool.and_false]
    exact Bool.false_ne_true

theorem exec_press {s : State} (hnode : s.node = .operating) (hwindow : s.planner.window = .servicing)
    (hopen : 0 < s.orders.openCount) : (s.operating && s.listWorking) = true := by
  rw [s.operating_iff.2 hnode, (s.listWorking_iff).2 ⟨hwindow, hopen⟩]
  rfl

/-- Settles O35: the closing of the head, and the REPLACE before the ORDER or handed on. -/
theorem pressesCloseTheHeadOrder : Obligations.PressesCloseTheHeadOrder := by
  unfold Obligations.PressesCloseTheHeadOrder
  intro s hnode head slot count order closed
  refine ⟨fun hwindow hopen => ?works, fun hidle => ?ignored⟩
  case works =>
    have hguard := exec_press hnode hwindow hopen
    refine ⟨fun hlater => ⟨_, if_pos hguard, ?later⟩, fun hfirst => ?first, ⟨_, if_pos hguard, ?decline⟩⟩
    case later =>
      have hoffer := State.offer_agree (s := closed .done)
        (u := (s.countChoice.closeHead .done).hand [.replace slot]) (order .done (min 255 (count + 1)))
        rfl rfl rfl rfl rfl
      rw [hlater, State.settle_eq]
      refine (congrArg (fun u : State => { u with out := (s.countChoice.confirmHead false).settle.out }) hoffer).trans ?_
      rw [State.offer_frame (closed .done)]
      rfl
    case first =>
      refine ⟨_, exec_replace_front (s := closed .done) hnode slot, _, if_pos hguard, ?_⟩
      have hreplace : (s.countChoice.closeHead .done).replaceSlot slot = ((closed .done).replaceSlot slot).countChoice :=
        State.countChoice_replaceSlot (closed .done) slot
      have hconfirm : s.countChoice.confirmHead true =
          ((closed .done).replaceSlot slot).countChoice.offer (order .done (min 255 (count + 1))) :=
        congrArg (State.offer · (order .done (min 255 (count + 1)))) hreplace
      rw [hfirst, State.settle_eq]
      refine (congrArg (fun u : State => { u with out := (s.countChoice.confirmHead true).settle.out }) hconfirm).trans ?_
      split
      next hpresent =>
        have hoffer := State.offer_agree (s := ((closed .done).replaceSlot slot).settle)
          (u := ((closed .done).replaceSlot slot).countChoice) (order .done (min 255 (count + 1))) rfl rfl rfl rfl rfl
        have hchoices : s.choices + 1 = ((closed .done).replaceSlot slot).countChoice.choices :=
          congrArg (· + 1) ((closed .done).replaceSlot_choices slot).symm
        rw [hoffer, State.offer_frame ((closed .done).replaceSlot slot).settle, hchoices]
        rfl
      next habsent =>
        have hoffer := State.offer_agree (s := closed .done) (u := (closed .done).countChoice)
          (order .done (min 255 (count + 1))) rfl rfl rfl rfl rfl
        rw [State.replaceSlot_absent (Bool.not_eq_true _ ▸ habsent), hoffer, State.offer_frame (closed .done)]
        rfl
    case decline => rfl
  case ignored =>
    have hguard : ¬(s.operating && s.listWorking) = true := by
      rw [s.operating_iff.2 hnode, Bool.true_and, State.listWorking_iff]
      rintro ⟨hwindow, hopen⟩
      exact hidle.elim (· hwindow) hopen.ne'
    exact ⟨if_neg hguard, if_neg hguard⟩

end Sys2Proof.Machine
end

section
/-! SUPPORT. The run-hour boundary and the period end. -/

namespace Sys2Proof.Machine

open Sys2Proof

/-! ### RUN_HOUR_BOUNDARY -/

/-- The hours by a rate that is valid (R85). -/
theorem hoursOf_of_valid {life : Nat} {d : DynRecord} (hvalid : d.rateValid = true) :
    hoursOf life d =
      if life * 2 ^ 28 ≤ d.account then 0
      else if d.rate = 0 then 65535 else min 65535 ((life * 2 ^ 28 - d.account) / d.rate) := by
  have hrate : (d.rateValid = false ∨ d.rate = 0) = (d.rate = 0) := by rw [hvalid]; simp
  rw [hoursOf, lifeTicks, ticksPerPassage_eq]
  simp only [hrate]

/-- A present record in agreement with its account after a run-hour boundary (R82, R84). -/
theorem Component.hour_of_present {cfg : Configuration} {sl : SlotConfig} {c : Component} (hpresent : sl.present = true)
    (hrecord : RecordLaw cfg sl c) :
    (c.hour cfg sl).urgency = urgencyOf cfg.hz cfg.tWatch c.wear (c.hour cfg sl).hours ∧
      (c.hour cfg sl).band = bandOf cfg.tWatch c.wear (c.hour cfg sl).urgency ∧
      (c.hour cfg sl).marked = (c.marked || decide ((c.hour cfg sl).dyn ≠ c.dyn)) := by
  have hafter := Component.hour_recordLaw hpresent hrecord
  simp only [RecordLaw, hpresent, if_true] at hafter
  obtain ⟨-, hurgency, hband⟩ := hafter
  refine ⟨hurgency, hband, ?_⟩
  change (if (c.hour cfg sl).dyn = c.dyn then c.marked else true) = _
  split
  next hsame => simp [hsame]
  next hmoved => simp [hmoved]

/-- The state that the hour's work starts from: the boundary taken, and the counters turned unless it was handed over. -/
def State.hourTaken (s : State) : State :=
  if .runHourBoundary ∈ s.handed then s.take .runHourBoundary else (s.take .runHourBoundary).countHour

theorem exec_runHourBoundary {s : State} (hnode : s.node = .operating) :
    exec .runHourBoundary s = .next (s.hourTaken.rework (Component.hour s.cfg)).settle := by
  refine (if_pos (s.operating_iff.2 hnode)).trans ?_
  have hcontains : s.handed.contains .runHourBoundary = true ↔ .runHourBoundary ∈ s.handed := List.contains_iff_mem
  rw [State.hourTaken]
  simp only [hcontains]
  rfl

/-- A rework on a state that differs from another in lines, store and outstanding work. -/
theorem State.rework_agree {s u : State} (f : SlotConfig → Component → Component)
    (hlength : s.comps.length = Config.slots) (hstraps : u.straps = s.straps) (hbus : u.bus = s.bus)
    (hplanner : u.planner = s.planner) (hqueue : u.queue = s.queue) (hquery : u.query = s.query)
    (hcomps : u.comps = s.comps) (hcfg : u.cfg = s.cfg) (hforecast : u.forecast = s.forecast) :
    u.rework f =
      { u.overlay (s.offerAll (bandChanges s.comps (mapSlots f s.cfg.slots s.comps))) with
        comps := mapSlots f s.cfg.slots s.comps
        forecast := { s.forecast with pending := nodeForecast s.cfg.slots (mapSlots f s.cfg.slots s.comps) } } := by
  have halerts := bandAlerts_eq_bandChanges hlength ((mapSlots_length f s.cfg.slots s.comps).trans hlength)
  have hput : u.setComps (mapSlots f s.cfg.slots s.comps) =
      { u with
        comps := mapSlots f s.cfg.slots s.comps
        forecast := { s.forecast with pending := nodeForecast s.cfg.slots (mapSlots f s.cfg.slots s.comps) } } := by
    rw [State.setComps_eq]
    simp only [hcfg, hforecast]
  rw [State.rework, hcomps, hcfg, halerts,
    State.offerAll_agree (s := s) (u := u.setComps (mapSlots f s.cfg.slots s.comps)) _ hstraps hbus hplanner hqueue
      hquery, hput]
  rfl

theorem State.hourTaken_rework {s : State} (hlength : s.comps.length = Config.slots) :
    s.hourTaken.rework (Component.hour s.cfg) =
      { s.hourTaken.overlay (s.offerAll (bandChanges s.comps (mapSlots (Component.hour s.cfg) s.cfg.slots s.comps))) with
        comps := mapSlots (Component.hour s.cfg) s.cfg.slots s.comps
        forecast :=
          { s.forecast with
            pending := nodeForecast s.cfg.slots (mapSlots (Component.hour s.cfg) s.cfg.slots s.comps) } } := by
  unfold State.hourTaken
  split <;> exact State.rework_agree _ hlength rfl rfl rfl rfl rfl rfl rfl rfl

theorem State.hourTaken_eq (s : State) :
    s.hourTaken =
      { s with
        lines :=
          if .runHourBoundary ∈ s.handed then s.lines
          else { s.lines with runMs := 0, runHours := min 16777215 (s.lines.runHours + 1) }
        account := if .runHourBoundary ∈ s.handed then s.account else { s.account with nodeMarked := true }
        handed := s.handed.erase .runHourBoundary } := by
  unfold State.hourTaken
  split <;> rfl

/-- Settles O19: the hour's work on each present record, from the state of the boundary taken. -/
theorem runHourFoldsTheHour : Obligations.RunHourFoldsTheHour := by
  unfold Obligations.RunHourFoldsTheHour
  intro s hnode hconfig hwidth htable
  have hslots := slots_length_of_configLaw hconfig
  have hlength := (comps_of_widthLaw hwidth).1
  obtain ⟨hrecords, -⟩ := (tableLaw_iff s).1 htable hnode
  have hrework := s.hourTaken_rework hlength
  have hcomps : (s.hourTaken.rework (Component.hour s.cfg)).comps = mapSlots (Component.hour s.cfg) s.cfg.slots s.comps :=
    congrArg State.comps hrework
  have hforecast : (s.hourTaken.rework (Component.hour s.cfg)).forecast.pending =
      nodeForecast s.cfg.slots (mapSlots (Component.hour s.cfg) s.cfg.slots s.comps) :=
    congrArg (fun u => u.forecast.pending) hrework
  have hcomp (i : Nat) (hi : i < Config.slots) : (s.hourTaken.rework (Component.hour s.cfg)).settle.comp i =
      if (s.cfg.slot i).present = true then (s.comp i).hour s.cfg (s.cfg.slot i) else s.comp i := by
    rw [State.comp, State.settle_comps, hcomps, mapSlots_comp]
    simp only [hlength ▸ hi, and_true]
  refine ⟨_, exec_runHourBoundary hnode, fun i hi => ⟨fun habsent => ?absent, fun hpresent => ?present⟩, ?length,
    ?forecast, ?frame⟩
  case absent => rw [hcomp i hi, if_neg (by rw [habsent]; exact Bool.false_ne_true)]
  case present =>
    obtain ⟨hurgency, hband, hmarked⟩ :=
      Component.hour_of_present hpresent (hrecords i (hslots ▸ hi) (hlength ▸ hi))
    rw [hcomp i hi, if_pos hpresent]
    refine ⟨rfl, hoursOf_of_valid (life := (s.cfg.slot i).life)
      (d := { (s.comp i).dyn with rate := nextRate (s.comp i).dyn, rateValid := true, hourDelta := 0 }) rfl, hurgency,
      hband, ?_⟩
    rw [← hmarked]
    rfl
  case length => rw [State.settle_comps, hcomps, mapSlots_length]
  case forecast =>
    rw [State.settle_comps, State.settle_forecast, hcomps, hforecast]
    exact nodeForecast_of _ _
  case frame =>
    rw [State.settle_comps, State.settle_forecast, hcomps, hforecast, State.settle_eq, hrework, State.hourTaken_eq,
      State.offerAll_frame s]
    rfl

end Sys2Proof.Machine
end

section
/-! SUPPORT. The period end. -/

namespace Sys2Proof.Machine

open Sys2Proof

/-! ### The encoder's count -/

theorem encoderCount_unassigned {functions : List LineFn} (hnone : .encoder ∉ functions) (counts : List Nat) :
    encoderCount functions counts = 0 := by
  induction functions generalizing counts with
  | nil => rfl
  | cons f fs ih =>
    obtain ⟨hf, hfs⟩ := not_or.1 (List.mem_cons.not.1 hnone)
    cases counts with
    | nil => rfl
    | cons n ns => exact (if_neg (Ne.symm hf)).trans (ih hfs ns)

/-- With at most one ENCODER the count is that of its line (R41). -/
theorem encoderCount_line {functions : List LineFn} {counts : List Nat} (honce : functions.count .encoder ≤ 1)
    {line : Nat} (hline : line < counts.length) (hencoder : functions.getD line .masked = .encoder) :
    encoderCount functions counts = counts.getD line 0 := by
  induction functions generalizing counts line with
  | nil => simp at hencoder
  | cons f fs ih =>
    cases counts with
    | nil => simp at hline
    | cons n ns =>
      cases line with
      | zero => exact if_pos (by simpa using hencoder)
      | succ line =>
        rw [List.getD_cons_succ] at hencoder
        have hmem : .encoder ∈ fs := by
          rw [List.getD_eq_getElem?_getD] at hencoder
          cases hget : fs[line]? with
          | none => rw [hget] at hencoder; cases hencoder
          | some g =>
            rw [hget] at hencoder
            exact hencoder ▸ List.mem_of_getElem? hget
        have hcount := List.count_pos_iff.2 hmem
        rw [List.count_cons] at honce
        have hf : f ≠ .encoder := fun h => by
          rw [h, if_pos (beq_self_eq_true _)] at honce
          omega
        refine (if_neg hf).trans (ih ?_ (Nat.lt_of_succ_lt_succ hline) hencoder)
        omega

theorem encoder_once {s : State} (hconfig : ConfigLaw s) (hnode : s.node = .operating) :
    s.cfg.functions.count .encoder ≤ 1 := by
  have hlaw := (configLaw_iff s).1 hconfig
  have hpassed := hlaw.passed (hlaw.operates hnode)
  by_contra hmore
  simp only [commitResult, Configuration.countOf, Nat.not_le.1 hmore, if_true] at hpassed
  split_ifs at hpassed <;> omega

/-! ### The slip work -/

theorem mapSlots_eq_self {f : SlotConfig → Component → Component} (hf : ∀ sl c, f sl c = c) (slots : List SlotConfig)
    (comps : List Component) : mapSlots f slots comps = comps := by
  refine List.ext_getElem (mapSlots_length f slots comps) fun i hi hi' => ?_
  have hcomp := mapSlots_getD f slots comps i hi'
  rw [List.getD_eq_getElem _ _ hi, hf, ite_self, List.getD_eq_getElem _ _ hi'] at hcomp
  exact hcomp

theorem Component.measure_unassigned {cfg : Configuration} (hnone : cfg.assigned .encoder = false) (counts : List Nat)
    (encoder : Nat) (sl : SlotConfig) (c : Component) : c.measure cfg counts encoder sl = c := by
  unfold Component.measure
  cases sl.tach with
  | none => rfl
  | some line => exact if_neg fun h => Bool.false_ne_true (hnone.symm.trans h.2)

theorem Component.measure_unmeasured {cfg : Configuration} {sl : SlotConfig} (hnot : sl.kind = .belt ∨ sl.tach = none)
    (counts : List Nat) (encoder : Nat) (c : Component) : c.measure cfg counts encoder sl = c := by
  unfold Component.measure
  cases htach : sl.tach with
  | none => rfl
  | some line => exact if_neg fun h => h.1 (hnot.resolve_right (by rw [htach]; exact (nomatch ·)))

/-- The slip work on a measured roller (R41 to R44). -/
theorem Component.measure_measured {cfg : Configuration} {sl : SlotConfig} {line : Nat}
    (hassigned : cfg.assigned .encoder = true) (hkind : sl.kind ≠ .belt) (htach : sl.tach = some line)
    (counts : List Nat) (encoder : Nat) (c : Component) :
    c.measure cfg counts encoder sl =
      { c with
        dyn := { c.dyn with slip := nextSlip c.dyn.slip encoder sl.ratio (counts.getD line 0) }
        marked := c.marked || decide (nextSlip c.dyn.slip encoder sl.ratio (counts.getD line 0) ≠ c.dyn.slip) } := by
  unfold Component.measure
  rw [htach]
  refine (if_pos ⟨hkind, hassigned⟩).trans ?_
  dsimp only
  split
  next hsame => simp only [hsame, ne_eq, not_true_eq_false, decide_false, Bool.or_false]
  next hmoved => simp only [ne_eq, hmoved, not_false_eq_true, decide_true, Bool.or_true]

/-- The mark of a record follows its slip. -/
theorem Component.measure_marked {cfg : Configuration} (hassigned : cfg.assigned .encoder = true) (counts : List Nat)
    (encoder : Nat) (sl : SlotConfig) (c : Component) :
    (c.measure cfg counts encoder sl).marked =
      (c.marked || decide ((c.measure cfg counts encoder sl).dyn.slip ≠ c.dyn.slip)) := by
  by_cases hnot : sl.kind = .belt ∨ sl.tach = none
  · simp [Component.measure_unmeasured hnot]
  · obtain ⟨hkind, htach⟩ := not_or.1 hnot
    obtain ⟨line, hline⟩ := Option.ne_none_iff_exists'.1 htach
    rw [Component.measure_measured hassigned hkind hline]

/-! ### SAMPLE_PERIOD_END -/

/-- The state with an owed TAKEN handed over again (R157). -/
theorem State.retryTaken_eq (s : State) :
    s.retryTaken =
      match s.planner.takenValues with
      | some v =>
        if s.planner.takenOwed = true ∧ s.planner.window = .contending then
          { s with planner := { s.planner with takenOwed := false } }.offer
            { priority := 255 - v.urgency, body := .taken v }
        else s
      | none => s := by
  unfold State.retryTaken
  by_cases howed : s.planner.takenOwed = true ∧ s.planner.window = .contending
  · rw [if_pos (by rw [howed.1, howed.2]; rfl)]
    cases s.planner.takenValues with
    | none => rfl
    | some v => exact (if_pos howed).symm
  · rw [if_neg (by rwa [Bool.and_eq_true, beq_iff_eq])]
    cases s.planner.takenValues with
    | none => rfl
    | some v => exact (if_neg howed).symm

/-- Handing an owed TAKEN over again reads what the transmit queue reads. -/
theorem State.retryTaken_agree {s u : State} (hstraps : u.straps = s.straps) (hbus : u.bus = s.bus)
    (hplanner : u.planner = s.planner) (hqueue : u.queue = s.queue) (hquery : u.query = s.query) :
    u.retryTaken = u.overlay s.retryTaken := by
  unfold State.retryTaken
  rw [hplanner]
  split
  · split
    · exact State.offer_agree (s := s.setPlanner _) (u := u.setPlanner _) _ hstraps hbus rfl hqueue hquery
    · exact (State.overlay_self hplanner hqueue hquery).symm
  · exact (State.overlay_self hplanner hqueue hquery).symm

/-- The table after a period end. -/
def State.measured (s : State) : List Component :=
  if s.lines.levels.motorRun.level = true then
    mapSlots (Component.measure s.cfg s.lines.counts (encoderCount s.cfg.functions s.lines.counts)) s.cfg.slots s.comps
  else s.comps

/-- A period end up to the handing over of an owed TAKEN. -/
def State.periodUsed (s : State) : State :=
  { s with
    lines := { s.lines with counts := List.replicate Config.lines 0 }
    tracker := s.tracker.sweep s.cfg.tHand
    comps := s.measured
    handed :=
      s.handed ++
        if s.lines.levels.motorRun.level = true then
          [.distanceCredit (encoderCount s.cfg.functions s.lines.counts)]
        else [] }

theorem exec_samplePeriodEnd {s : State} (hnode : s.node = .operating) :
    exec .samplePeriodEnd s =
      .next { s.periodUsed.overlay s.retryTaken with handed := s.periodUsed.handed ++ [Instr.checkpoint] }.settle := by
  have hused : (s.restartCounts.usePeriod s.lines.counts).sweepInbound = s.periodUsed := by
    unfold State.periodUsed State.measured State.usePeriod
    by_cases hhigh : s.lines.levels.motorRun.level = true
    · simp only [if_pos hhigh]
      rw [if_pos (show s.restartCounts.lines.levels.motorRun.level = true from hhigh)]
      rfl
    · simp only [if_neg hhigh, List.append_nil]
      rw [if_neg (show ¬s.restartCounts.lines.levels.motorRun.level = true from hhigh)]
      rfl
  refine (if_pos (s.operating_iff.2 hnode)).trans ?_
  rw [hused, State.retryTaken_agree (s := s) (u := s.periodUsed) rfl rfl rfl rfl rfl]
  rfl

/-- Settles O18. -/
theorem periodEndTakesItsCounts : Obligations.PeriodEndTakesItsCounts := by
  unfold Obligations.PeriodEndTakesItsCounts
  intro s hnode hconfig hwidth again
  have hlength := (comps_of_widthLaw hwidth).1
  have hcounts := ((widthLaw_iff s).1 hwidth).lines.counts.1
  have hmeasure {i : Nat} (hi : i < Config.slots) (hhigh : s.lines.levels.motorRun.level = true) :
      s.measured.getD i .zero =
        if (s.cfg.slot i).present = true then
          (s.comp i).measure s.cfg s.lines.counts (encoderCount s.cfg.functions s.lines.counts) (s.cfg.slot i)
        else s.comp i := by
    rw [State.measured, if_pos hhigh, mapSlots_comp]
    simp only [hlength ▸ hi, and_true]
  refine ⟨_, encoderCount s.cfg.functions s.lines.counts, exec_samplePeriodEnd hnode, fun line hline hfn => ?line,
    fun hnone => ?unassigned, fun hnot => ?kept, fun hhigh hassigned i hi => ?records, ?frame⟩
  case line => exact encoderCount_line (encoder_once hconfig hnode) (hcounts ▸ hline) hfn
  case unassigned => exact encoderCount_unassigned (by simpa [Configuration.assigned] using hnone) _
  case kept =>
    change s.measured = s.comps
    rw [State.measured]
    split
    next hhigh =>
      have hnone := hnot.resolve_left (by rw [hhigh]; exact (nomatch ·))
      exact mapSlots_eq_self (Component.measure_unassigned hnone _ _) _ _
    next => rfl
  case records =>
    intro sl expected
    have hcomp := hmeasure hi hhigh
    have hmark :
        s.measured.getD i .zero =
          { s.comp i with
            dyn := { (s.comp i).dyn with slip := (s.measured.getD i .zero).dyn.slip }
            marked :=
              (s.comp i).marked || decide ((s.measured.getD i .zero).dyn.slip ≠ (s.comp i).dyn.slip) } := by
      rw [hcomp]
      split
      next => rw [← Component.measure_marked hassigned]; exact Component.measure_eq _ _ _ _ _
      next => simp only [ne_eq, not_true_eq_false, decide_false, Bool.or_false]
    change (∀ tach, _ → _ → _ → _ → (s.measured.getD i .zero).dyn.slip = _) ∧ (_ → s.measured.getD i .zero = _) ∧ _
    refine ⟨fun tach hpresent hkind htach hfloor => ?slip, fun hnot => ?held, hmark⟩
    case slip =>
      rw [hcomp, if_pos hpresent, Component.measure_measured hassigned hkind htach]
      exact nextSlip_smoothed _ hfloor
    case held =>
      rw [hcomp]
      split
      next hpresent =>
        rcases hnot with habsent | hbelt | hno | hfew
        · exact nomatch hpresent.symm.trans habsent
        · exact Component.measure_unmeasured (.inl hbelt) _ _ _
        · exact Component.measure_unmeasured (.inr hno) _ _ _
        · by_cases hnot : (s.cfg.slot i).kind = .belt ∨ (s.cfg.slot i).tach = none
          · exact Component.measure_unmeasured hnot _ _ _
          · obtain ⟨hkind, htach⟩ := not_or.1 hnot
            obtain ⟨line, hline⟩ := Option.ne_none_iff_exists'.1 htach
            have hsame : nextSlip (s.comp i).dyn.slip (encoderCount s.cfg.functions s.lines.counts)
                (s.cfg.slot i).ratio (s.lines.counts.getD line 0) = (s.comp i).dyn.slip := if_pos hfew
            rw [Component.measure_measured hassigned hkind hline, hsame]
            simp
      next => rfl
  case frame =>
    have hagain : again = s.overlay again := by
      have h := s.retryTaken_frame
      rw [State.retryTaken_eq] at h
      exact h
    have hretry : s.retryTaken = again := s.retryTaken_eq
    have hhanded :
        s.periodUsed.handed ++ [.checkpoint] =
          s.handed ++
            if s.lines.levels.motorRun.level = true then
              [.distanceCredit (encoderCount s.cfg.functions s.lines.counts), .checkpoint]
            else [.checkpoint] := by
      simp only [State.periodUsed]
      split <;> simp only [List.append_assoc, List.singleton_append, List.nil_append]
    have htracker :
        s.periodUsed.tracker =
          { s.tracker with
            inbound := s.tracker.inbound.filter fun e => decide (e.age ≤ s.cfg.tHand)
            missing :=
              min 65535
                (s.tracker.missing +
                  (s.tracker.inbound.length -
                    (s.tracker.inbound.filter fun e => decide (e.age ≤ s.cfg.tHand)).length)) } := by
      rw [← stale_count]
      rfl
    rw [State.settle_eq, hretry, hhanded, hagain, ← htracker]
    rfl

end Sys2Proof.Machine
end

section
/-! SUPPORT. Windows: how one opens, what closes it, and the TAKENs heard. -/

namespace Sys2Proof.Machine

open Sys2Proof

/-! ### The queue and the planner -/

section Queue

variable (s : State) (p : Planner) (n : Notice)

theorem State.offerPlain_setPlanner :
    ((s.setPlanner p).offerPlain n).queue = (s.offerPlain n).queue ∧
      ((s.setPlanner p).offerPlain n).query = (s.offerPlain n).query := by
  by_cases hroom : s.queued < Config.queuePlaces
  · rw [State.offerPlain_room hroom, State.offerPlain_room (s := s.setPlanner p) hroom]
    exact ⟨rfl, rfl⟩
  by_cases hevicts : ∃ last, s.queue.waiting.getLast? = some last ∧ n.header s.straps.addr < last.header s.straps.addr
  · obtain ⟨last, hlast, hheader⟩ := hevicts
    rw [State.offerPlain_evict hroom hlast hheader, State.offerPlain_evict (s := s.setPlanner p) hroom hlast hheader,
      State.tellLost_eq, State.tellLost_eq]
    exact ⟨rfl, rfl⟩
  · have hdrops : ∀ last, s.queue.waiting.getLast? = some last →
        ¬n.header s.straps.addr < last.header s.straps.addr := fun last hlast hheader => hevicts ⟨last, hlast, hheader⟩
    rw [State.offerPlain_drop hroom hdrops, State.offerPlain_drop (s := s.setPlanner p) hroom hdrops,
      State.tellLost_eq, State.tellLost_eq]
    exact ⟨rfl, rfl⟩

/-- What the queue and the pending query become does not hang on the planner. -/
theorem State.offer_setPlanner :
    ((s.setPlanner p).offer n).queue = (s.offer n).queue ∧ ((s.setPlanner p).offer n).query = (s.offer n).query := by
  have hdiscard (u : State) : (u.discard n).queue = u.queue ∧ (u.discard n).query = u.query := by
    unfold State.discard
    split <;> exact ⟨rfl, rfl⟩
  cases hsilenced : s.silenced with
  | true =>
    rw [State.offer_silenced hsilenced, State.offer_silenced (s := s.setPlanner p) hsilenced, (hdiscard s).1,
      (hdiscard s).2]
    exact hdiscard (s.setPlanner p)
  | false =>
    by_cases hplain : n.body.isClaimKind = true → hasClaimKind s.queue.waiting = false ∧ s.sendingClaimKind = false
    · rw [State.offer_plain hsilenced hplain, State.offer_plain (s := s.setPlanner p) hsilenced hplain]
      exact s.offerPlain_setPlanner p n
    obtain ⟨hkind, hshares⟩ := Classical.not_imp.1 hplain
    cases hwaits : hasClaimKind s.queue.waiting with
    | true =>
      rw [State.offer_replaces hsilenced hkind hwaits,
        State.offer_replaces (s := s.setPlanner p) hsilenced hkind hwaits]
      exact ⟨rfl, rfl⟩
    | false =>
      have hsends : s.sendingClaimKind = true := by simpa [hwaits] using hshares
      rw [State.offer_held hsilenced hkind hwaits hsends,
        State.offer_held (s := s.setPlanner p) hsilenced hkind hwaits hsends]
      exact ⟨rfl, rfl⟩

/-- Another planner can be put in before or after a notice is handed over, if it does not contend. -/
theorem State.offer_setPlanner_comm {s : State} {p : Planner} (n : Notice) (hp : p.window ≠ .contending) :
    (s.setPlanner p).offer n = (s.offer n).setPlanner p := by
  obtain ⟨hqueue, hquery⟩ := s.offer_setPlanner p n
  rw [State.offer_frame s, State.offer_frame (s.setPlanner p)]
  unfold State.overlay
  rw [hqueue, hquery, State.offer_planner_of_ne n hp]
  rfl

end Queue

/-! ### MAINT_RISE -/

/-- The state with the next window open: counted, the pending values announced, in a given window state. -/
def State.opened (s : State) (window : WindowState) (taken : Option TakenValues) : State :=
  { s with
    planner :=
      { s.planner with
        window := window
        windowCount := (s.planner.windowCount + 1) % 65536
        pendingHold := none
        takenValues := taken
        takenOwed := false
        standing := standingOf s.cfg.k s.forecast.pending.urgency s.straps.addr s.planner.view }
    forecast := { s.forecast with announced := s.forecast.pending }
    account := { s.account with nodeMarked := true } }

/-- The values of the TAKEN of the next window. -/
def State.nextTaken (s : State) : TakenValues :=
  { urgency := s.forecast.pending.urgency
    dueCount := s.forecast.pending.dueCount
    windowCount := (s.planner.windowCount + 1) % 65536 }

/-- A window opens by the values that it announces, the claim they end, and the places left (R136, R154, R155). -/
theorem State.openWindow_eq {s : State} (hwindow : s.planner.window ≠ .contending) :
    s.openWindow =
      if 128 ≤ s.forecast.pending.urgency then
        if s.planner.takenSet.length < s.cfg.k then
          (s.opened .contending (some s.nextTaken)).offer (takenNotice s.nextTaken)
        else s.opened .deferred none
      else if 128 ≤ s.forecast.announced.urgency then (s.opened .standby none).offer withdrawNotice
      else s.opened .standby none := by
  have hcopied : s.countWindow.copyAnnounced = s.opened s.planner.window none := rfl
  have hclaim (window : WindowState) (taken : Option TakenValues) :
      (s.opened window taken).ownClaim = decide (128 ≤ s.forecast.pending.urgency) := rfl
  unfold State.openWindow
  rw [hcopied]
  dsimp only
  by_cases hdue : 128 ≤ s.forecast.pending.urgency
  · have hown : (s.opened s.planner.window none).ownClaim = true := decide_eq_true hdue
    rw [hown, Bool.not_true, Bool.and_false, if_neg Bool.false_ne_true, if_pos hdue, State.decideWindow, hown]
    rfl
  · have hnone (window : WindowState) : (s.opened window none).ownClaim = false := decide_eq_false hdue
    have hstands (u : State) (hu : u.ownClaim = false) :
        u.decideWindow = u.setPlanner { u.planner with window := .standby } := by
      rw [State.decideWindow, hu]
      rfl
    rw [hnone, Bool.not_false, Bool.and_true, if_neg hdue]
    by_cases hends : 128 ≤ s.forecast.announced.urgency
    · have hcomm := State.offer_setPlanner_comm (s := s.opened s.planner.window none)
        (p := (s.opened .standby none).planner) withdrawNotice (nomatch ·)
      rw [if_pos (show s.ownClaim = true from decide_eq_true hends), if_pos hends, hstands,
        State.offer_planner_of_ne (s := s.opened s.planner.window none) _ hwindow]
      · exact hcomm.symm
      · rw [State.ownClaim, State.offer_forecast]
        exact hnone s.planner.window
    · rw [if_neg (show ¬s.ownClaim = true from fun h => hends (of_decide_eq_true h)), if_neg hends,
        hstands _ (hnone _)]
      rfl

theorem exec_maintRise_opens {s : State} (hnode : s.node = .operating)
    (hclosed : s.planner.window = .closed ∨ s.planner.window = .pending) :
    exec .maintRise s = .next (s.edge .maint true).openWindow.settle := by
  refine (if_pos (s.operating_iff.2 hnode)).trans ?_
  rw [if_pos hclosed]
  rfl

/-- Settles O29. -/
theorem maintRiseOpensAWindow : Obligations.MaintRiseOpensAWindow := by
  unfold Obligations.MaintRiseOpensAWindow
  intro s hnode v count opened values
  refine ⟨fun hclosed => ?opens, fun hclosed hpending => ?raised⟩
  case opens =>
    have hexec := exec_maintRise_opens hnode hclosed
    rw [State.openWindow_eq (s := s.edge .maint true)
      (show s.planner.window ≠ .contending from fun h => by rw [h] at hclosed; simp at hclosed)] at hexec
    refine ⟨fun hnone hno => ?_, fun hnone hends => ?_, fun hdue hroom => ?_, fun hdue hfull => ?_⟩
    · rw [if_neg (Nat.not_le.2 hnone : ¬128 ≤ (s.edge .maint true).forecast.pending.urgency),
        if_neg (Nat.not_le.2 hno : ¬128 ≤ (s.edge .maint true).forecast.announced.urgency)] at hexec
      exact ⟨_, hexec, rfl⟩
    · rw [if_neg (Nat.not_le.2 hnone : ¬128 ≤ (s.edge .maint true).forecast.pending.urgency),
        if_pos (show 128 ≤ (s.edge .maint true).forecast.announced.urgency from hends)] at hexec
      exact ⟨_, hexec, rfl⟩
    · rw [if_pos (show 128 ≤ (s.edge .maint true).forecast.pending.urgency from hdue),
        if_pos (show (s.edge .maint true).planner.takenSet.length < (s.edge .maint true).cfg.k from hroom)] at hexec
      exact ⟨_, hexec, rfl⟩
    · rw [if_pos (show 128 ≤ (s.edge .maint true).forecast.pending.urgency from hdue),
        if_neg (Nat.not_lt.2 hfull :
          ¬(s.edge .maint true).planner.takenSet.length < (s.edge .maint true).cfg.k)] at hexec
      exact ⟨_, hexec, rfl⟩
  case raised =>
    refine ⟨(s.edge .maint true).settle, (if_pos (s.operating_iff.2 hnode)).trans ?_, rfl⟩
    rw [if_neg (not_or.2 ⟨hclosed, hpending⟩)]
    rfl

/-! ### MAINT_FALL and PENDING_HOLD_EXPIRY -/

/-- Settles O30. -/
theorem windowsCloseWithTheSetCleared : Obligations.WindowsCloseWithTheSetCleared := by
  unfold Obligations.WindowsCloseWithTheSetCleared
  intro s hnode
  have hoperates := s.operating_iff.2 hnode
  refine ⟨⟨_, if_pos hoperates, rfl⟩, ?expires, fun hnot => if_neg ?stays⟩
  case expires =>
    rintro hpending ⟨ms, hms, hrun⟩
    refine ⟨_, if_pos ?_, rfl⟩
    rw [hoperates, hpending, hms]
    exact decide_eq_true hrun
  case stays =>
    rw [hoperates, Bool.true_and, Bool.and_eq_true, beq_iff_eq, decide_eq_true_eq]
    rintro ⟨hpending, hrun⟩
    cases hhold : s.planner.pendingHold with
    | none =>
      rw [hhold] at hrun
      exact absurd hrun (by decide)
    | some ms =>
      rw [hhold] at hrun
      exact Nat.not_lt.2 hrun ((hnot.resolve_left (not_not.2 hpending)) ms hhold)

/-! ### TAKEN_HEARD -/

/-- In an open window that it leaves no room to contend in vain, a TAKEN heard only joins the set (R152). -/
theorem State.hearTaken_joins {s : State} {source : Addr} (hopen : s.planner.window ≠ .closed)
    (hroom : s.planner.window = .contending → (addTaken s.planner.takenSet source).length < s.cfg.k) :
    s.hearTaken source = s.setPlanner { s.planner with takenSet := addTaken s.planner.takenSet source } := by
  unfold State.hearTaken
  cases hwindow : s.planner.window with
  | closed => exact absurd hwindow hopen
  | contending => exact if_neg (Nat.not_le.2 (hroom hwindow))
  | _ => rfl

/-- Settles O31. -/
theorem takenHeardFillsTheSet : Obligations.TakenHeardFillsTheSet := by
  unfold Obligations.TakenHeardFillsTheSet
  intro source s hnode haccepts joined
  have hexec : exec (.takenHeard source) s = .next (s.hearTaken source).settle :=
    if_pos ((s.plannerHears_iff source).2 ⟨hnode, haccepts⟩)
  have hjoined : addTaken s.planner.takenSet source = joined := addTaken_eq _ _
  refine ⟨fun hclosed => ⟨_, hexec, ?_⟩, fun hopen hroom => ⟨_, hexec, ?_⟩, fun hcontends hfull => ⟨_, hexec, ?_⟩⟩
  · rw [State.settle_eq, State.hearTaken, hclosed]
    rfl
  · rw [State.settle_eq, State.hearTaken_joins hopen (hjoined ▸ hroom), hjoined]
    rfl
  · rw [State.settle_eq, State.hearTaken, hcontends]
    dsimp only
    rw [hjoined, if_pos hfull]
    rfl

/-! ### Claims and withdrawals heard -/

theorem viewRemove_eq (view : List ClaimEntry) (source : Addr) :
    viewRemove view source = view.filter fun e => decide (e.address ≠ source) :=
  List.filter_congr fun e _ => by rw [bne, beq_eq_decide, decide_not]

/-- Settles O33. -/
theorem entriesLeaveTheView : Obligations.EntriesLeaveTheView := by
  unfold Obligations.EntriesLeaveTheView
  intro source s hnode after
  refine ⟨fun haccepts => ⟨_, if_pos ((s.plannerHears_iff source).2 ⟨hnode, haccepts⟩), ?_⟩,
    ⟨_, if_pos (s.operating_iff.2 hnode), ?_⟩⟩
  · rw [← viewRemove_eq]
    rfl
  · have hview :
        (s.planner.view.filter fun e => decide (¬(e.address = source ∧ 100000 ≤ e.age))) =
          s.planner.view.filter fun e => !(e.address == source && decide (Config.claimAgeMs ≤ e.age)) :=
      List.filter_congr fun e _ => by rw [decide_not, Bool.decide_and, beq_eq_decide]
    rw [hview]
    rfl

/-- Settles O32. -/
theorem claimsKeepTheViewRanked : Obligations.ClaimsKeepTheViewRanked := by
  unfold Obligations.ClaimsKeepTheViewRanked
  intro source urgency due hours s hnode haccepts hlaw claim entry others ignored after
  have hhears := (s.plannerHears_iff source).2 ⟨hnode, haccepts⟩
  have hplans := (plannerLaw_iff s).1 hlaw
  have hignored : claimIgnored urgency.toNat due.toNat = true ↔ ignored := by
    unfold claimIgnored
    simp only [Bool.or_eq_true, Bool.and_eq_true, decide_eq_true_eq, beq_iff_eq]
    exact Iff.rfl
  refine ⟨fun h => if_neg ?_, fun h => ⟨(s.hearClaim source urgency).settle, if_pos ?_, rfl, ?_⟩⟩
  · rw [hhears, hignored.2 h]
    exact Bool.false_ne_true
  · rw [hhears, Bool.eq_false_iff.2 (mt hignored.1 h)]
    rfl
  have hview :
      (s.hearClaim source urgency).settle.planner.view =
        if 128 ≤ urgency.toNat then viewClaim s.planner.view entry else viewRemove s.planner.view source := rfl
  have hothers : viewRemove s.planner.view source = others := viewRemove_eq _ _
  refine ⟨fun hlow => ?_, fun hdue hroom => ?_, fun last hdue hfull hsame hlast => ?_, ?_⟩
  · rw [hview, if_neg (Nat.not_le.2 hlow), hothers]
  · rw [hview, if_pos hdue, viewClaim_of_room (hroom.symm.imp_left (hothers ▸ ·))]
    exact hothers ▸ viewInsert_perm entry _
  · rw [hview, if_pos hdue, viewClaim_of_full hfull.ge (hothers.trans hsame) hlast]
    exact ⟨fun h => by rw [if_pos h]; exact viewInsert_perm _ _, fun h => if_neg (Bool.eq_false_iff.1 h)⟩
  · rw [hview]
    split
    next hdue =>
      exact (hplans.view.claim ⟨haccepts, hdue, Nat.le_of_lt_succ urgency.isLt, Nat.zero_le _⟩).ranked
    next => exact hplans.view.ranked.sublist List.filter_sublist

end Sys2Proof.Machine
end

section
/-! SUPPORT. The Notice Queue: where a notice takes its place, and what it leaves behind. -/

namespace Sys2Proof.Machine

open Sys2Proof

theorem joinAfter_joined {addr : Addr} {l : List Notice} (h : Ascending addr l) (n : Notice) :
    JoinedByHeader addr n l (joinAfter addr n l) := by
  obtain ⟨before, after, rfl, hjoined, hbefore, hafter⟩ := joinAfter_split addr n l
  refine ⟨before, after, rfl, hjoined, hbefore, fun m hm => ?_⟩
  cases after with
  | nil => cases hm
  | cons head tail =>
    have hhead := hafter head rfl
    rcases List.mem_cons.1 hm with rfl | htail
    · exact hhead
    · exact hhead.trans_le ((List.pairwise_cons.1 (List.pairwise_append.1 h).2.1).1 m htail)

theorem rejoin_returned {addr : Addr} {l : List Notice} (h : Ascending addr l) (n : Notice) :
    ReturnedByHeader addr n l (rejoin addr n l) := by
  obtain ⟨before, after, rfl, hjoined, hbefore, hafter⟩ := rejoin_split addr n l
  refine ⟨before, after, rfl, hjoined, hbefore, fun m hm => ?_⟩
  cases after with
  | nil => cases hm
  | cons head tail =>
    have hhead := hafter head rfl
    rcases List.mem_cons.1 hm with rfl | htail
    · exact hhead
    · exact hhead.trans ((List.pairwise_cons.1 (List.pairwise_append.1 h).2.1).1 m htail)

theorem hasClaimKind_iff (waiting : List Notice) :
    hasClaimKind waiting = true ↔ ∃ m ∈ waiting, m.body.isClaimKind = true := List.any_eq_true

theorem silenced_eq_false {s : State} (h : s.bus.mode ≠ .silenced) : s.silenced = false :=
  Bool.eq_false_iff.2 fun hs => h (s.silenced_iff.1 hs)

/-- With no CLAIM or WITHDRAW in the queue none waits and none is in transmission. -/
theorem State.claimKind_none {s : State} (h : s.holds NoticeBody.isClaimKind = 0) :
    hasClaimKind s.queue.waiting = false ∧ s.sendingClaimKind = false := by
  obtain ⟨hwaits, hsends⟩ := Nat.add_eq_zero_iff.1 h
  refine ⟨(hasClaimKind_eq_false_iff _).2 hwaits, ?_⟩
  rw [State.sendingClaimKind_eq]
  cases hflight : s.sends NoticeBody.isClaimKind with
  | false => exact hflight
  | true =>
    rw [hflight] at hsends
    cases hsends

theorem NoticeBody.not_taken {b : NoticeBody} (hkind : b.isClaimKind = true) : b.isTaken = false := by
  cases b with
  | taken => cases hkind
  | _ => rfl

theorem NoticeBody.not_report {b : NoticeBody} (hkind : b.isClaimKind = true) : b.isReport = false := by
  cases b with
  | report => cases hkind
  | _ => rfl

/-- Settles O37. -/
theorem noticesTakeTheirPlaceByHeader : Obligations.NoticesTakeTheirPlaceByHeader := by
  unfold Obligations.NoticesTakeTheirPlaceByHeader
  intro n s hmode hlaw hplain
  obtain ⟨-, hascending, -⟩ := hlaw
  have hoffer : s.offer n = s.offerPlain n :=
    State.offer_plain (silenced_eq_false hmode) fun hkind =>
      State.claimKind_none (hplain.resolve_left (by rw [hkind]; exact (nomatch ·)))
  rw [hoffer]
  refine ⟨fun hroom => ?joins, fun last kept hfull hlast => ?full⟩
  case joins =>
    obtain ⟨before, after, hsplit, hjoined, hbefore, hafter⟩ := joinAfter_joined hascending n
    refine ⟨before, after, hsplit, ?_, hbefore, hafter⟩
    rw [State.offerPlain_room hroom, ← hjoined]
    rfl
  case full =>
    have hfew : ¬s.queued < Config.queuePlaces := by rw [hfull]; decide
    have hget : s.queue.waiting.getLast? = some last := by rw [hlast, List.getLast?_concat]
    have hkept : s.queue.waiting.dropLast = kept := by rw [hlast, List.dropLast_concat]
    by_cases hlower : n.header s.straps.addr < last.header s.straps.addr
    · simp only [hlower, if_true]
      rw [State.offerPlain_evict hfew hget hlower, State.tellLost_eq, hkept]
      refine ⟨?_, fun _ => ?_, fun hnot => absurd hlower (Nat.not_lt.2 hnot), rfl⟩
      · have hlength : s.queue.waiting.length = kept.length + 1 := by rw [hlast, List.length_append]; rfl
        rw [State.queued, hlength] at hfull
        exact (congrArg (· + _) (joinAfter_length s.straps.addr n kept)).trans hfull
      · rw [hlast] at hascending
        exact joinAfter_joined (List.pairwise_append.1 hascending).1 n
    · simp only [hlower, if_false]
      rw [State.offerPlain_drop hfew fun m hm => by rw [hget, Option.some.injEq] at hm; exact hm ▸ hlower,
        State.tellLost_eq]
      exact ⟨hfull, False.elim, fun _ => rfl, rfl⟩

/-- Settles O38. -/
theorem claimsShareOnePlace : Obligations.ClaimsShareOnePlace := by
  unfold Obligations.ClaimsShareOnePlace
  intro n s hlaw
  have hqueue := (queueLaw_iff s).1 hlaw
  refine ⟨fun hmode hkind hwaits => ?_, fun hmode hkind hsends => ?_, fun hmode => ?_⟩
  · rw [State.offer_replaces (silenced_eq_false hmode) hkind ((hasClaimKind_iff _).2 hwaits)]
    refine ⟨joinAfter_joined (hqueue.ascending.sublist List.filter_sublist) n, rfl, ?_⟩
    rw [← State.offer_replaces (silenced_eq_false hmode) hkind ((hasClaimKind_iff _).2 hwaits)]
    exact hlaw.offer (NoticeBody.not_taken hkind) (NoticeBody.not_report hkind)
  · have hclaims := hqueue.claims
    have hflight : flightCount NoticeBody.isClaimKind s.inFlight = 1 := if_pos hsends
    refine State.offer_held (silenced_eq_false hmode) hkind ?_ (s.sendingClaimKind_eq.trans hsends)
    rw [hasClaimKind_eq_false_iff]
    omega
  · rw [State.offer_silenced (s.silenced_iff.2 hmode), State.discard]

/-! ### Losses and aborts -/

/-- What the queue is after a notice is taken back, by the mark and the held successor (R123, R125). -/
def Returned (s : State) (n : Notice) (q : NoticeQueue) : Prop :=
  (n.body.isTaken = true → s.queue.removalMark = true → q = { s.queue with removalMark := false }) ∧
    (∀ successor, s.queue.held = some successor →
      JoinedByHeader s.straps.addr successor s.queue.waiting q.waiting ∧
        q = { s.queue with waiting := q.waiting, held := none }) ∧
    (s.queue.removalMark = false → s.queue.held = none →
      ReturnedByHeader s.straps.addr n s.queue.waiting q.waiting ∧ q = { s.queue with waiting := q.waiting }) ∧
    q.waiting.Pairwise fun a b => a.header s.straps.addr ≤ b.header s.straps.addr

theorem State.takeBack_returned {s : State} {n : Notice} (hsends : s.inFlight = some n) (hlaw : QueueLaw s)
    {b : BusController} (hactivity : b.activity = .receiving) (hmode : b.mode ≠ .silenced) :
    Returned s n ((s.setBus b).takeBack n).queue := by
  have hqueue := (queueLaw_iff s).1 hlaw
  have hafter := (queueLaw_iff _).1 (hlaw.takeBack hsends hactivity hmode)
  have hheld := hqueue.held
  have hmark := hqueue.mark
  rw [hsends] at hheld hmark
  refine ⟨fun htaken hmarked => ?_, fun successor hsuccessor => ?_, fun hunmarked hnone => ?_, ?_⟩
  · rw [State.takeBack, if_pos (by rw [htaken]; exact hmarked)]
    rfl
  · have hkind : n.body.isClaimKind = true := hheld (by rw [hsuccessor]; rfl)
    rw [State.takeBack, NoticeBody.not_taken hkind, hkind, State.setBus_queue, hsuccessor]
    exact ⟨joinAfter_joined hqueue.ascending successor, rfl⟩
  · have hback : (s.setBus b).takeBack n = (s.setBus b).setWaiting (rejoin s.straps.addr n s.queue.waiting) := by
      rw [State.takeBack, State.setBus_queue, hunmarked, Bool.and_false, hnone]
      exact ite_self _
    rw [hback]
    exact ⟨rejoin_returned hqueue.ascending n, rfl⟩
  · have hascending := hafter.ascending
    rw [State.takeBack_frame] at hascending ⊢
    exact hascending

/-- Settles O41. -/
theorem lossesAndAbortsReturnTheNotice : Obligations.LossesAndAbortsReturnTheNotice := by
  unfold Obligations.LossesAndAbortsReturnTheNotice
  intro cell n s hsends hlaw hfault back
  have hheard := hlaw.heard hsends
  refine ⟨fun hfirst hlast hsent => ?lost, fun hcell => ?aborted⟩
  case lost =>
    refine ⟨((s.setBus { s.bus with activity := .receiving }).takeBack n).settle, ?_,
      State.takeBack_returned hsends hlaw rfl hheard, ?_⟩
    · change execArbitrationLost cell s = _
      unfold execArbitrationLost
      rw [hsends]
      refine if_pos ?_
      rw [State.sentBit, hsent, decide_eq_true ⟨hfirst, hlast⟩]
      rfl
    · rw [State.settle_eq, State.takeBack_frame]
      rfl
  case aborted =>
    have hbus : s.bus.aborted =
        { s.bus with
          activity := .receiving
          faultCount := s.bus.faultCount + 1
          mode := if s.bus.faultCount = 31 then .mute else s.bus.mode
          muteMs := if s.bus.faultCount = 31 then some 0 else s.bus.muteMs } := by
      unfold BusController.aborted
      by_cases hlimit : s.bus.faultCount = 31
      · rw [if_pos (by rw [hlimit]), if_pos hlimit, if_pos hlimit, hlimit]
      · rw [if_neg (Nat.not_le.2 (show s.bus.faultCount + 1 < 32 by omega)), if_neg hlimit, if_neg hlimit]
    have hmode : s.bus.aborted.mode ≠ .silenced := by
      rw [hbus]
      dsimp only
      split
      · exact (nomatch ·)
      · exact hheard
    refine ⟨((s.setBus s.bus.aborted).takeBack n).settle, ?_,
      State.takeBack_returned hsends hlaw (by rw [hbus]) hmode, ?_⟩
    · change execFrameAbort cell s = _
      unfold execFrameAbort
      rw [hsends]
      refine if_pos ?_
      unfold State.abortsAt State.sentBit
      rcases hcell with hdominant | ⟨hpast, hwithin⟩
      · rw [hdominant]
        rfl
      · rw [List.getElem?_eq_getElem hwithin]
        exact Bool.or_eq_true _ _ ▸ .inr (decide_eq_true hpast)
    · rw [State.settle_eq, State.takeBack_frame, ← hbus]
      rfl

/-! ### Completions -/

/-- Settles O42. -/
theorem completedNoticesLeaveTheQueue : Obligations.CompletedNoticesLeaveTheQueue := by
  unfold Obligations.CompletedNoticesLeaveTheQueue
  intro witnessed n s hsends hlaw hplain
  have hqueue := (queueLaw_iff s).1 hlaw
  have htold :
      (((s.setBus { s.bus with activity := .waiting, faultCount := s.bus.faultCount - 1 }).dropCompleted).tellCompleted
        n s.queue.removalMark) =
      { s.completeFrame with query := if n.body.isReport = true then none else s.query } := by
    unfold State.tellCompleted
    cases hbody : n.body with
    | taken values =>
      dsimp only
      by_cases hmark : s.queue.removalMark = true
      · exact if_pos hmark
      · have hwindow := (hplain.resolve_left (by rw [hbody]; exact (nomatch ·))).resolve_left hmark
        exact (if_neg hmark).trans (if_neg hwindow)
    | _ => rfl
  refine ⟨{ s.completeFrame with query := if n.body.isReport = true then none else s.query }.settle, ?_,
    fun hnone => ?_, fun successor hsuccessor => ?_, rfl⟩
  · change execFrameComplete witnessed s = _
    unfold execFrameComplete
    rw [hsends]
    exact congrArg done htold
  · change s.completeFrame.queue.waiting = _
    simp only [State.completeFrame, State.dropCompleted, State.setBus_queue, hnone]
  · have hwaiting : s.completeFrame.queue.waiting = joinAfter s.straps.addr successor s.queue.waiting := by
      simp only [State.completeFrame, State.dropCompleted, State.setBus_queue, State.setBus_straps, hsuccessor]
    change JoinedByHeader _ _ _ s.completeFrame.queue.waiting ∧ Ascending _ s.completeFrame.queue.waiting
    rw [hwaiting]
    exact ⟨joinAfter_joined hqueue.ascending successor, joinAfter_ascending hqueue.ascending⟩

/-! ### The view of the bus -/

/-- Settles O39. -/
theorem busViewAndMuteMove : Obligations.BusViewAndMuteMove := by
  unfold Obligations.BusViewAndMuteMove
  intro s hnode
  have hrunning := s.running_iff.2 hnode
  refine ⟨fun hflight => ⟨_, if_pos (by rw [hrunning, hflight]; rfl), ?_⟩,
    fun hview hwaits => ⟨_, if_pos (by rw [hrunning, hview]; rfl), ?_⟩,
    fun hview => if_neg (by rw [hview, Bool.and_eq_true]; exact fun h => nomatch h.2), ?_, fun hnot => if_neg ?_⟩
  · have hidle : s.bus.activity.atIdle = .waiting := by
      unfold State.inFlight at hflight
      cases hactivity : s.bus.activity with
      | sending m =>
        rw [hactivity] at hflight
        cases hflight
      | _ => rfl
    rw [State.settle_eq, hidle]
    rfl
  · rw [State.settle_eq, State.beginReception, if_pos hwaits]
    rfl
  · rintro ⟨ms, hms, hrun⟩
    refine ⟨_, if_pos (by rw [hrunning, hms]; exact decide_eq_true hrun), ?_⟩
    have hmode :
        (if s.bus.mode = .mute then BusMode.active else s.bus.mode) =
          if s.bus.mode = .silenced then .silenced else .active := by
      cases s.bus.mode <;> rfl
    rw [State.settle_eq, hmode]
    rfl
  · rw [hrunning, Bool.true_and, decide_eq_true_eq]
    intro hrun
    cases hmute : s.bus.muteMs with
    | none =>
      rw [hmute] at hrun
      exact absurd hrun (by decide)
    | some ms =>
      rw [hmute] at hrun
      exact Nat.not_lt.2 hrun (hnot ms hmute)

theorem State.maySend_iff (s : State) :
    s.maySend = true ↔
      s.node ≠ .starting ∧ s.bus.mode = .active ∧ s.bus.activity = .waiting ∧ s.queue.waiting ≠ [] := by
  simp only [State.maySend, Bool.and_eq_true, s.running_iff, beq_iff_eq, Bool.not_eq_true', List.isEmpty_eq_false_iff,
    and_assoc]

/-- Settles O40. -/
theorem theHeadNoticeGoesIntoTransmission : Obligations.TheHeadNoticeGoesIntoTransmission := by
  unfold Obligations.TheHeadNoticeGoesIntoTransmission
  intro silence s hnode hwaits
  have hrunning := s.running_iff.2 hnode
  refine ⟨?starts, fun hnot => if_neg ?held, fun hnot => ?receives⟩
  case starts =>
    intro n rest hmode hqueue sending
    have hmay : s.maySend = true :=
      s.maySend_iff.2 ⟨hnode, hmode, hwaits, by rw [hqueue]; exact List.cons_ne_nil _ _⟩
    have hbegun : s.beginSending.settle = sending s.beginSending.settle.out := by
      rw [State.settle_eq, State.beginSending, hqueue]
      rfl
    refine ⟨fun hview => ⟨_, if_pos (by rw [hmay, hview]; rfl), hbegun⟩,
      fun hseen hsilence => ⟨_, if_pos ?_, hbegun⟩⟩
    rw [hmay, hseen]
    exact decide_eq_true hsilence
  case held =>
    rw [Bool.and_eq_true, s.maySend_iff, beq_iff_eq]
    rintro ⟨⟨-, hmode, -, hsome⟩, hview⟩
    rcases hnot with h | h | h
    · exact h hmode
    · exact hsome h
    · exact nomatch hview.symm.trans h
  case receives =>
    refine ⟨s.beginReception.settle, (if_neg ?_).trans (if_pos ?_), ?_⟩
    · rw [Bool.and_eq_true, Bool.and_eq_true, s.maySend_iff, decide_eq_true_eq]
      rintro ⟨⟨⟨-, hmode, -, hsome⟩, hseen⟩, hsilence⟩
      rcases hnot with h | h | h | h
      · exact h hmode
      · exact hsome h
      · exact nomatch hseen.symm.trans h
      · exact Nat.not_le.2 h hsilence
    · rw [hrunning, hwaits]
      rfl
    · rw [State.settle_eq, State.beginReception, if_pos hwaits]
      rfl

end Sys2Proof.Machine
end

section
/-! SUPPORT. The cells of a frame and its fields. -/

namespace Sys2Proof.Machine

open Sys2Proof

/-! ### Bytes and words -/

theorem append_toNat {m n : Nat} (high : BitVec m) (low : BitVec n) :
    (high ++ low).toNat = high.toNat * 2 ^ n + low.toNat := by
  rw [BitVec.toNat_append, ← Nat.shiftLeft_add_eq_or_of_lt low.isLt, Nat.shiftLeft_eq]

theorem be16_toNat (word : BitVec 16) : be16 word.toNat = [word.extractLsb' 8 8, word.extractLsb' 0 8] := by
  have hhigh : BitVec.ofNat 8 (word.toNat / 256) = word.extractLsb' 8 8 := by
    refine BitVec.eq_of_toNat_eq ?_
    rw [BitVec.extractLsb'_toNat, BitVec.toNat_ofNat, Nat.shiftRight_eq_div_pow]
  have hlow : BitVec.ofNat 8 word.toNat = word.extractLsb' 0 8 := by
    refine BitVec.eq_of_toNat_eq ?_
    rw [BitVec.extractLsb'_toNat, BitVec.toNat_ofNat, Nat.shiftRight_zero]
  rw [be16, hhigh, hlow]

/-- The third byte of a PASSAGE: its classes, its exit and its phantom flag (section 7.4). -/
theorem passageByte_eq (thickness mass : PieceClass) (exit : ExitPath) (phantom : Bool) :
    BitVec.ofNat 8 (thickness.toNat * 32 + mass.toNat * 4 + ExitPath.code exit * 2 + phantom.toNat) =
      thickness ++ mass ++ BitVec.ofBool (decide (exit = .divert)) ++ BitVec.ofBool phantom := by
  refine BitVec.eq_of_toNat_eq ?_
  have hexit : (decide (exit = .divert)).toNat = ExitPath.code exit := by cases exit <;> rfl
  have hbound := (thickness ++ mass ++ BitVec.ofBool (decide (exit = .divert)) ++ BitVec.ofBool phantom).isLt
  rw [append_toNat, append_toNat, append_toNat, BitVec.toNat_ofBool, BitVec.toNat_ofBool, hexit] at hbound ⊢
  rw [BitVec.toNat_ofNat]
  omega

/-! ### Fields in their cells -/

/-- A number that stands after `front` reads back from its cells. -/
theorem ofBits_field {cells front back : List Bool} {width value : Nat}
    (hcells : cells = front ++ (bitsOf width value ++ back)) (hvalue : value < 2 ^ width) :
    ofBits ((cells.drop front.length).take width) = value := by
  rw [hcells, List.drop_left, List.take_left' (bitsOf_length width value), ofBits_bitsOf, Nat.mod_eq_of_lt hvalue]

theorem payloadBits_append (front back : List Byte) :
    payloadBits (front ++ back) = payloadBits front ++ payloadBits back := by
  induction front with
  | nil => rfl
  | cons byte front ih => rw [List.cons_append, payloadBits, ih, payloadBits, List.append_assoc]

section Fields

variable (cls priority : Nat) (source dest : Addr) (payload : List Byte)

/-- The cells of a frame, field by field (R101). -/
theorem frameCells_fields :
    frameCells cls priority source dest payload =
      false :: (bitsOf 3 cls ++ (bitsOf 8 priority ++ (bitsOf 6 source.toNat ++ (bitsOf 6 dest.toNat ++
        (bitsOf 4 payload.length ++ (payloadBits payload ++
          bitsOf 16 (checkWord (coveredBits cls priority source dest payload)).toNat)))))) := by
  simp only [frameCells, coveredBits, List.append_assoc]

theorem frameCells_drop_one_take :
    ((frameCells cls priority source dest payload).drop 1).take (27 + 8 * payload.length) =
      coveredBits cls priority source dest payload :=
  List.take_left' (coveredBits_length ..)

variable {cls priority} {payload}

/-- A frame of numbers within their fields reads back whole (R101, R102, R105). -/
theorem parseFrame_frameCells (hcls : cls < 8) (hpriority : priority < 256) (hpayload : payload.length ≤ 12) :
    parseFrame (frameCells cls priority source dest payload) =
      some
        { cls := cls, priority := priority, source := source, dest := dest, payload := payload, checkOk := true } := by
  have hcovered := frameCells_drop_one_take cls priority source dest payload
  have hcheck := (checkWord (coveredBits cls priority source dest payload)).isLt
  rw [frameCells_fields] at hcovered ⊢
  rw [List.drop_succ_cons, List.drop_zero] at hcovered
  rw [← List.append_nil (bitsOf 16 _)] at hcovered ⊢
  simp only [parseFrame, takeBits_bitsOf, Nat.mod_eq_of_lt (show cls < 2 ^ 3 from hcls),
    Nat.mod_eq_of_lt (show priority < 2 ^ 8 from hpriority),
    Nat.mod_eq_of_lt source.isLt, Nat.mod_eq_of_lt dest.isLt,
    Nat.mod_eq_of_lt (show payload.length < 2 ^ 4 from lt_of_le_of_lt hpayload (by decide)),
    if_neg (Nat.not_lt.2 hpayload), takeBytes_payloadBits, hcovered, Nat.mod_eq_of_lt hcheck,
    BitVec.ofNat_toNat, BitVec.setWidth_eq, beq_self_eq_true]

end Fields

/-! ### Broken frames -/

theorem takeBits_then {α : Type} {width : Nat} {cells : List Bool} {f : Nat → List Bool → Option α} {a : α}
    (h : (match takeBits width cells with
      | none => none
      | some (value, rest) => f value rest) = some a) :
    width ≤ cells.length ∧ f (ofBits (cells.take width)) (cells.drop width) = some a := by
  unfold takeBits at h
  split at h
  next hnone => cases h
  next value rest hsome =>
    split at hsome
    next hwidth =>
      obtain ⟨rfl, rfl⟩ := hsome
      exact ⟨hwidth, h⟩
    next => cases hsome

theorem takeBytes_length {count : Nat} {cells rest : List Bool} {bytes : List Byte}
    (h : takeBytes count cells = some (bytes, rest)) :
    bytes.length = count ∧ cells.length = 8 * count + rest.length := by
  induction count generalizing cells bytes with
  | zero =>
    cases h
    exact ⟨rfl, by omega⟩
  | succ count ih =>
    obtain ⟨hwidth, h⟩ := takeBits_then h
    split at h
    next => cases h
    next bytes' rest' hbytes =>
      cases h
      obtain ⟨hlength, hcells⟩ := ih hbytes
      rw [List.length_drop] at hcells
      exact ⟨congrArg (· + 1) hlength, by omega⟩

/-- What a frame that is not broken has: a dominant lead cell, a length of at most 12, and all its cells (R105). -/
theorem parseFrame_some {cells : List Bool} {f : Frame} (h : parseFrame cells = some f) :
    cells.head? = some false ∧ 44 ≤ cells.length ∧ ofBits ((cells.drop 24).take 4) ≤ 12 ∧
      44 + 8 * ofBits ((cells.drop 24).take 4) ≤ cells.length := by
  unfold parseFrame at h
  split at h
  next rest =>
    obtain ⟨hcls, h⟩ := takeBits_then h
    obtain ⟨hpriority, h⟩ := takeBits_then h
    obtain ⟨hsource, h⟩ := takeBits_then h
    obtain ⟨hdest, h⟩ := takeBits_then h
    obtain ⟨hlen, h⟩ := takeBits_then h
    split at h
    next => cases h
    next hroom =>
      split at h
      next => cases h
      next payload rest' hpayload =>
        obtain ⟨hcheck, -⟩ := takeBits_then h
        obtain ⟨-, hbytes⟩ := takeBytes_length hpayload
        simp only [List.drop_drop, List.length_drop] at hbytes hroom hlen
        refine ⟨rfl, ?_⟩
        simp only [List.drop_succ_cons, List.length_cons]
        have htop := Nat.not_lt.1 hroom
        norm_num at hbytes hroom hcheck ⊢
        omega
  next => cases h

theorem parseFrame_none {cells : List Bool}
    (h : cells.length < 44 ∨ cells.head? = some true ∨ 13 ≤ ofBits ((cells.drop 24).take 4) ∨
      cells.length < 44 + 8 * ofBits ((cells.drop 24).take 4)) : parseFrame cells = none := by
  cases hparse : parseFrame cells with
  | none => rfl
  | some f =>
    obtain ⟨hlead, hlength, hlen, hcells⟩ := parseFrame_some hparse
    rcases h with h | h | h | h
    · omega
    · rw [hlead] at h
      cases h
    · omega
    · omega

section Fields

variable {cls priority : Nat} (source dest : Addr) {payload : List Byte}

/-- Each number of a frame stands in its cells (R101). -/
theorem frameCells_numbers (hcls : cls < 8) (hpriority : priority < 256) (hpayload : payload.length ≤ 12) :
    let cells := frameCells cls priority source dest payload
    ofBits ((cells.drop 1).take 3) = cls ∧ ofBits ((cells.drop 4).take 8) = priority ∧
      ofBits ((cells.drop 12).take 6) = source.toNat ∧ ofBits ((cells.drop 18).take 6) = dest.toNat ∧
      ofBits ((cells.drop 24).take 4) = payload.length := by
  intro cells
  have hcells : cells = _ := frameCells_fields cls priority source dest payload
  have hlead : ∀ bits : List Bool, false :: bits = [false] ++ bits := fun _ => rfl
  rw [hlead] at hcells
  have h4 := hcells.trans (List.append_assoc ..).symm
  have h12 := h4.trans (List.append_assoc ..).symm
  have h18 := h12.trans (List.append_assoc ..).symm
  have h24 := h18.trans (List.append_assoc ..).symm
  have hfield {front back : List Bool} {width value at_ : Nat} (h : cells = front ++ (bitsOf width value ++ back))
      (hat : front.length = at_) (hvalue : value < 2 ^ width) : ofBits ((cells.drop at_).take width) = value :=
    hat ▸ ofBits_field h hvalue
  refine ⟨hfield hcells rfl hcls, hfield h4 ?_ hpriority, hfield h12 ?_ source.isLt, hfield h18 ?_ dest.isLt,
    hfield h24 ?_ (lt_of_le_of_lt hpayload (by decide))⟩
  all_goals simp only [List.length_append, bitsOf_length, List.length_cons, List.length_nil]

variable (cls priority) (payload)

/-- The bytes of the payload stand one after the other from cell 28 (R101). -/
theorem frameCells_bytes {i : Nat} (hi : i < payload.length) :
    ofBits (((frameCells cls priority source dest payload).drop (28 + 8 * i)).take 8) = (payload.getD i 0).toNat := by
  have hbits : payloadBits payload =
      payloadBits (payload.take i) ++ (bitsOf 8 (payload.getD i 0).toNat ++ payloadBits (payload.drop (i + 1))) := by
    rw [← payloadBits, ← payloadBits_append, List.getD_eq_getElem _ _ hi, List.getElem_cons_drop,
      List.take_append_drop]
  have hcells := frameCells_fields cls priority source dest payload
  rw [hbits] at hcells
  have hfront : (false :: (bitsOf 3 cls ++ bitsOf 8 priority ++ bitsOf 6 source.toNat ++ bitsOf 6 dest.toNat ++
      bitsOf 4 payload.length ++ payloadBits (payload.take i))).length = 28 + 8 * i := by
    simp only [List.length_append, bitsOf_length, List.length_cons, payloadBits_length, List.length_take,
      Nat.min_eq_left hi.le]
    omega
  rw [← hfront]
  refine ofBits_field (back := payloadBits (payload.drop (i + 1)) ++
    bitsOf 16 (checkWord (coveredBits cls priority source dest payload)).toNat) ?_ (payload.getD i 0).isLt
  simpa only [List.append_assoc, List.cons_append] using hcells

/-- The check word stands in the last 16 cells and covers all but the lead cell (R102). -/
theorem frameCells_check :
    ofBits ((frameCells cls priority source dest payload).drop (28 + 8 * payload.length)) =
      (checkWord (((frameCells cls priority source dest payload).drop 1).take (27 + 8 * payload.length))).toNat := by
  have hlast : (frameCells cls priority source dest payload).drop (28 + 8 * payload.length) =
      bitsOf 16 (checkWord (coveredBits cls priority source dest payload)).toNat := by
    rw [show 28 + 8 * payload.length = 27 + 8 * payload.length + 1 by omega]
    exact List.drop_left' (coveredBits_length ..)
  rw [hlast, frameCells_drop_one_take, ofBits_bitsOf, Nat.mod_eq_of_lt (BitVec.isLt _)]

end Fields

/-- A frame cut short anywhere is broken (R105). -/
theorem parseFrame_cut {cls priority : Nat} (source dest : Addr) {payload : List Byte} (hcls : cls < 8)
    (hpriority : priority < 256) (hpayload : payload.length ≤ 12) {n : Nat} (hn : n < 44 + 8 * payload.length) :
    parseFrame ((frameCells cls priority source dest payload).take n) = none := by
  obtain ⟨-, -, -, -, hlen⟩ := frameCells_numbers source dest hcls hpriority hpayload
  have hlength : ((frameCells cls priority source dest payload).take n).length = n := by
    rw [List.length_take, frameCells_length, Nat.min_eq_left hn.le]
  refine parseFrame_none ?_
  by_cases hshort : n < 44
  · exact .inl (hlength.trans_lt hshort)
  · have hcut : (((frameCells cls priority source dest payload).take n).drop 24).take 4 =
        ((frameCells cls priority source dest payload).drop 24).take 4 := by
      rw [List.drop_take, List.take_take, Nat.min_eq_left (by omega)]
    rw [hcut, hlen, hlength]
    exact .inr (.inr (.inr hn))

/-- Settles O43. -/
theorem framesReadBackAsSent : Obligations.FramesReadBackAsSent := by
  unfold Obligations.FramesReadBackAsSent
  refine ⟨fun cls priority source dest payload hcls hpriority hpayload => ?fields, fun addr priority => ?kinds⟩
  case fields =>
    obtain ⟨hclass, hprio, hsource, hdest, hlen⟩ := frameCells_numbers source dest hcls hpriority hpayload
    exact ⟨parseFrame_frameCells source dest hcls hpriority hpayload, frameCells_length .., fun n hn =>
      parseFrame_cut source dest hcls hpriority hpayload hn, rfl, hclass, hprio, hsource, hdest, hlen,
      fun i hi => frameCells_bytes cls priority source dest payload hi, frameCells_check cls priority source dest payload⟩
  case kinds =>
    intro sent high byte
    have hsent {body : NoticeBody} {payload : List Byte} (hpayload : body.payload = payload) :
        sent body body.cls body.dest payload := ⟨hpayload ▸ rfl, rfl⟩
    refine ⟨?jam, fun tag thickness mass exit phantom => hsent ?passage, fun v => hsent rfl, fun v => hsent rfl,
      hsent rfl, ?alert, ?order, fun querier bytes => hsent rfl⟩
    case jam =>
      simp only [List.forall_mem_cons, List.not_mem_nil, false_implies, implies_true, and_true]
      refine ⟨fun cleared tag => hsent ?_, fun cleared tag => hsent ?_, fun cleared tag => hsent ?_⟩
      all_goals rw [NoticeBody.payload, be16_toNat]; rfl
    case passage => rw [NoticeBody.payload, be16_toNat, passageByte_eq]; rfl
    case alert =>
      simp only [List.forall_mem_cons, List.not_mem_nil, false_implies, implies_true, and_true]
      exact ⟨fun _ _ _ => hsent rfl, fun _ _ _ => hsent rfl, fun _ _ _ => hsent rfl, fun _ _ _ => hsent rfl⟩
    case order =>
      simp only [List.forall_mem_cons, List.not_mem_nil, false_implies, implies_true, and_true]
      exact ⟨fun _ _ _ _ => hsent rfl, fun _ _ _ _ => hsent rfl⟩

theorem State.reads_iff (s : State) :
    s.reads = true ↔ s.node ≠ .starting ∧ (s.bus.activity = .waiting ∨ s.bus.activity = .receiving) := by
  rw [State.reads, Bool.and_eq_true, s.running_iff, Bool.or_eq_true, beq_iff_eq, beq_iff_eq]

theorem exec_frameReceived {s : State} (hnode : s.node ≠ .starting)
    (hactivity : s.bus.activity = .waiting ∨ s.bus.activity = .receiving) (cells : List Bool) :
    exec (.frameReceived cells) s =
      match parseFrame cells with
      | none => done (s.endReception .awaitingIdle)
      | some f => done ((s.endReception .waiting).receive f) :=
  if_pos (s.reads_iff.2 ⟨hnode, hactivity⟩)

/-- Settles O44. -/
theorem brokenAndFailingFramesAreDropped : Obligations.BrokenAndFailingFramesAreDropped := by
  unfold Obligations.BrokenAndFailingFramesAreDropped
  intro cells s hnode hactivity read
  have hexec := exec_frameReceived hnode hactivity cells
  refine ⟨fun hbroken => ⟨(s.endReception .awaitingIdle).settle, ?_, rfl⟩, fun f hparse hcheck =>
    ⟨(s.endReception .waiting).settle, ?_, rfl⟩⟩
  · rw [parseFrame_none hbroken] at hexec
    exact hexec
  · rw [hparse] at hexec
    refine hexec.trans (congrArg done ?_)
    rw [State.receive, State.accepts, hcheck]
    rfl

end Sys2Proof.Machine
end

section
/-! SUPPORT. Frames received, by their class, and what an addressed QUERY or CONFIG does. -/

namespace Sys2Proof.Machine

open Sys2Proof

/-! ### Bytes read back -/

theorem word16_split (word : BitVec 16) : word16 (word.extractLsb' 8 8) (word.extractLsb' 0 8) = word := by
  refine BitVec.eq_of_toNat_eq ?_
  have hword := word.isLt
  rw [word16, append_toNat, BitVec.extractLsb'_toNat, BitVec.extractLsb'_toNat, Nat.shiftRight_eq_div_pow,
    Nat.shiftRight_zero]
  omega

theorem word32_eq (b3 b2 b1 b0 : Byte) : word32 b3 b2 b1 b0 = b3 ++ b2 ++ b1 ++ b0 := by
  refine BitVec.eq_of_toNat_eq ?_
  simp only [word32, append_toNat]
  omega

theorem word80_eq (b9 b8 b7 b6 b5 b4 b3 b2 b1 b0 : Byte) :
    word80 [b9, b8, b7, b6, b5, b4, b3, b2, b1, b0] =
      b9 ++ b8 ++ b7 ++ b6 ++ b5 ++ b4 ++ b3 ++ b2 ++ b1 ++ b0 := by
  refine BitVec.eq_of_toNat_eq ?_
  have hbound := (b9 ++ b8 ++ b7 ++ b6 ++ b5 ++ b4 ++ b3 ++ b2 ++ b1 ++ b0).isLt
  rw [word80, BitVec.toNat_ofNat]
  simp only [List.foldl_cons, List.foldl_nil, Nat.zero_mul, Nat.zero_add]
  refine Nat.mod_eq_of_lt ?_ |>.trans ?_
  all_goals simp only [append_toNat] at hbound ⊢
  all_goals omega

/-- The fields of the third byte of a PASSAGE (section 7.4). -/
theorem passageByte_fields (thickness mass : PieceClass) (exit : ExitPath) (phantom : Bool) :
    let byte : Byte := thickness ++ mass ++ BitVec.ofBool (decide (exit = .divert)) ++ BitVec.ofBool phantom
    byte.extractLsb' 5 3 = thickness ∧ byte.extractLsb' 2 3 = mass ∧
      (if byte.getLsbD 1 then ExitPath.divert else .straight) = exit := by
  intro byte
  have hthickness := thickness.isLt
  have hmass := mass.isLt
  have hphantom := phantom.toNat_le
  have hexit := (decide (exit = .divert)).toNat_le
  have hbyte : byte.toNat =
      ((thickness.toNat * 8 + mass.toNat) * 2 + (decide (exit = .divert)).toNat) * 2 + phantom.toNat := by
    simp only [byte, append_toNat, BitVec.toNat_ofBool, Nat.reducePow]
  refine ⟨BitVec.eq_of_toNat_eq ?_, BitVec.eq_of_toNat_eq ?_, ?_⟩
  · rw [BitVec.extractLsb'_toNat, hbyte, Nat.shiftRight_eq_div_pow]
    omega
  · rw [BitVec.extractLsb'_toNat, hbyte, Nat.shiftRight_eq_div_pow]
    omega
  · have hbit : byte.getLsbD 1 = decide ((decide (exit = .divert)).toNat = 1) := by
      rw [BitVec.getLsbD, hbyte, Nat.testBit_eq_decide_div_mod_eq]
      refine decide_eq_decide.2 ?_
      omega
    rw [hbit]
    cases exit <;> rfl

/-! ### Queries -/

theorem State.hearsAddressed_iff (s : State) (source : Addr) :
    s.hearsAddressed source = true ↔ s.node ≠ .starting ∧ s.bus.mode ≠ .silenced ∧ s.acceptsSource source = true := by
  simp only [State.hearsAddressed, Bool.and_eq_true, s.running_iff, Bool.not_eq_true', ← Bool.not_eq_true,
    s.silenced_iff, and_assoc]

theorem State.refusesQuery_iff (s : State) (kind : QueryKind) :
    s.refusesQuery kind = true ↔
      s.query ≠ none ∨ ¬(s.node ≠ .unconfigured ∨ kind = .identity ∨ kind = .commission) := by
  have hkind : kind.alwaysAnswered = true ↔ kind = .identity ∨ kind = .commission := by
    cases kind <;> decide
  rw [State.refusesQuery, Bool.or_eq_true, Bool.and_eq_true, beq_iff_eq, Bool.not_eq_true', ← Bool.not_eq_true, hkind,
    Option.isSome_iff_ne_none]
  simp only [ne_eq, not_or, not_not]

/-- Settles O46. -/
theorem queriesAreTakenOneAtATime : Obligations.QueriesAreTakenOneAtATime := by
  unfold Obligations.QueriesAreTakenOneAtATime
  intro querier arg s hnode haccepts commands p hp
  have hexec : exec p.1 s = queryCommand p.2 querier arg s := by
    simp only [commands, List.mem_cons, List.not_mem_nil, or_false] at hp
    rcases hp with rfl | rfl | rfl | rfl | rfl | rfl | rfl <;> rfl
  intro answered
  rw [hexec]
  have hhears (hmode : s.bus.mode ≠ .silenced) : s.hearsAddressed querier = true :=
    (s.hearsAddressed_iff querier).2 ⟨hnode, hmode, haccepts⟩
  refine ⟨fun hmode hnone hanswered => ?taken, fun hmode hnot => ?refused, fun hmode => if_neg ?silenced⟩
  case taken =>
    have hanswer : answerQuery p.2 querier arg s = { taken := true, state := s.takeQuery p.2 querier arg } :=
      if_neg ((s.refusesQuery_iff p.2).not.2 (not_or.2 ⟨not_not.2 hnone, not_not.2 hanswered⟩))
    intro taken
    refine ⟨(taken.setWitness true).settle, (if_pos (hhears hmode)).trans ?_, ?_⟩
    · rw [hanswer]
      rfl
    · have hbus : taken.bus = s.bus := State.offer_bus _ _
      rw [State.settle_eq, State.setWitness, hbus]
  case refused =>
    have hanswer : answerQuery p.2 querier arg s = refuse s := if_pos ((s.refusesQuery_iff p.2).2 hnot)
    refine ⟨(s.setWitness false).settle, (if_pos (hhears hmode)).trans ?_, rfl⟩
    rw [hanswer]
    rfl
  case silenced =>
    exact fun h => ((s.hearsAddressed_iff querier).1 h).2.1 hmode

/-! ### Frames received whole -/

section Received

variable {cls priority : Nat} {source dest : Addr} {payload : List Byte} {s : State}

/-- The fields of a frame received whole. -/
def wholeFrame (cls priority : Nat) (source dest : Addr) (payload : List Byte) : Frame :=
  { cls := cls, priority := priority, source := source, dest := dest, payload := payload, checkOk := true }

theorem exec_frameReceived_whole (hnode : s.node ≠ .starting)
    (hactivity : s.bus.activity = .waiting ∨ s.bus.activity = .receiving) (hcls : cls < 8) (hpriority : priority < 256)
    (hpayload : payload.length ≤ 12) :
    exec (.frameReceived (frameCells cls priority source dest payload)) s =
      done ((s.endReception .waiting).receive (wholeFrame cls priority source dest payload)) := by
  have hexec := exec_frameReceived hnode hactivity (frameCells cls priority source dest payload)
  rw [parseFrame_frameCells source dest hcls hpriority hpayload] at hexec
  exact hexec

theorem receive_clash (hsource : source = s.straps.addr) :
    s.receive (wholeFrame cls priority source dest payload) = if s.silenced then s else s.enterSilenced :=
  if_pos (by rw [hsource]; exact beq_self_eq_true _)

theorem State.accepts_iff (s : State) (cls priority : Nat) (source dest : Addr) (payload : List Byte) :
    s.accepts (wholeFrame cls priority source dest payload) = true ↔
      (dest = 0 ∨ dest = s.straps.addr) ∧ s.acceptsSource source = true := by
  rw [State.accepts, Bool.and_eq_true, Bool.and_eq_true, Bool.or_eq_true]
  exact and_congr_left' ((and_iff_right rfl).trans (or_congr beq_iff_eq beq_iff_eq))

theorem receive_other (hsource : source ≠ s.straps.addr) :
    s.receive (wholeFrame cls priority source dest payload) =
      if (dest = 0 ∨ dest = s.straps.addr) ∧ s.acceptsSource source = true then
        s.handOn (wholeFrame cls priority source dest payload)
      else s :=
  (if_neg fun h => hsource (beq_iff_eq.1 h)).trans (if_congr (s.accepts_iff cls priority source dest payload) rfl rfl)

/-- A notice to be heard is heard there and then, and witnessed unless SILENCED (R107, R108, R114). -/
theorem handOn_notice (hcls : cls ≠ 5 ∧ cls ≠ 7) :
    s.handOn (wholeFrame cls priority source dest payload) =
      (s.hearNotice (wholeFrame cls priority source dest payload)).setWitness (!s.silenced) :=
  if_neg (not_or.2 hcls)

theorem hearNotice_none
    (h : (cls = 0 ∧ payload.length ≠ 4) ∨ (cls = 1 ∧ payload.length ≠ 3) ∨ (cls = 2 ∧ payload.length ≠ 4) ∨
      (cls = 3 ∧ payload.length ≠ 4 ∧ payload.length ≠ 0) ∨ 4 ≤ cls) :
    s.hearNotice (wholeFrame cls priority source dest payload) = s := by
  rcases s.hearNotice_cases (wholeFrame cls priority source dest payload) with ⟨effect, hlayout, -⟩ | heq
  · change HeardNotice source cls payload effect at hlayout
    cases hlayout <;> simp at h
  · exact heq

end Received

/-- The witness slot plays no part in what a block hears. -/
theorem State.hearTaken_setWitness (s : State) (source : Addr) (driven : Bool) :
    (s.setWitness driven).hearTaken source = (s.hearTaken source).setWitness driven := by
  unfold State.hearTaken
  rw [show (s.setWitness driven).planner = s.planner from rfl]
  cases s.planner.window with
  | contending =>
    dsimp only
    rw [show (s.setWitness driven).cfg = s.cfg from rfl, apply_ite (State.setWitness · driven)]
    rfl
  | _ => rfl

theorem HeardNotice.setWitness {source : Addr} {cls : Nat} {payload : List Byte} {effect : State → State}
    (h : HeardNotice source cls payload effect) (s : State) (driven : Bool) :
    effect (s.setWitness driven) = (effect s).setWitness driven := by
  cases h with
  | taken b0 b1 b2 b3 =>
    dsimp only
    rw [State.hearTaken_setWitness, apply_ite (State.setWitness · driven)]
    rfl
  | _ =>
    dsimp only
    rw [apply_ite (State.setWitness · driven)]
    rfl

theorem HeardNotice.hears {source : Addr} {cls : Nat} {payload : List Byte} {effect : State → State}
    (h : HeardNotice source cls payload effect) (s : State) (priority : Nat) (dest : Addr) :
    s.hearNotice (wholeFrame cls priority source dest payload) = effect s ∧ cls ≠ 5 ∧ cls ≠ 7 := by
  cases h <;> exact ⟨rfl, by decide, by decide⟩

/-- A guarded command leaves what its guarded effect is, settled or as it stood. -/
theorem guarded_outcome {c : Prop} [Decidable c] (effect s : State) :
    ∃ u, (if c then done effect else .next s) = .next u ∧ u = { (if c then effect else s) with out := u.out } := by
  split
  · exact ⟨effect.settle, rfl, rfl⟩
  · exact ⟨s, rfl, rfl⟩

/-- Settles O45. -/
theorem wholeFramesAreTakenByTheirClass : Obligations.WholeFramesAreTakenByTheirClass := by
  unfold Obligations.WholeFramesAreTakenByTheirClass
  intro cls priority source dest payload s hcls hpriority hpayload hnode hactivity hqueue command read witnessed unusable
    taken
  have hexec : exec command s = done (read.receive (wholeFrame cls priority source dest payload)) :=
    exec_frameReceived_whole hnode hactivity hcls hpriority hpayload
  have hwitnessed : read.setWitness (!read.silenced) = witnessed := by
    have hdriven : (!read.silenced) = decide (s.bus.mode ≠ .silenced) := by
      rw [decide_not]
      exact congrArg _ (beq_eq_decide s.bus.mode .silenced)
    rw [hdriven]
    rfl
  have hkept {u : State} (h : read.receive (wholeFrame cls priority source dest payload) = u) :
      ∃ t, exec command s = .next t ∧ t = { u with out := t.out } :=
    ⟨u.settle, h ▸ hexec, rfl⟩
  refine ⟨fun hsource hmode => hkept ((receive_clash (s := read) hsource).trans (if_pos (s.silenced_iff.2 hmode))),
    fun hsource hmode => ?clash, fun hsource hnot => hkept ((receive_other (s := read) hsource).trans (if_neg fun h => ?dropped)),
    fun hsource husable hdest => ?accepted⟩
  case clash =>
    obtain ⟨t, ht, htout⟩ := hkept ((receive_clash (s := read) hsource).trans (if_neg (s.silenced_iff.not.2 hmode)))
    refine ⟨t, ht, htout.trans ?_⟩
    have hflight : s.inFlight = none := by
      rcases hactivity with h | h <;> rw [State.inFlight, h]
    have hreports := ((queueLaw_iff s).1 hqueue).reports
    rw [hflight, flightCount_none, Nat.add_zero] at hreports
    have hquery : (if (s.queue.waiting.any fun m => m.body.isReport) = true then none else s.query) = none := by
      split
      next => rfl
      next hnone =>
        have hzero : (s.queue.waiting.countP fun m => m.body.isReport) = 0 := by
          rw [List.countP_eq_zero]
          exact fun m hm hreport => hnone (List.any_eq_true.2 ⟨m, hm, hreport⟩)
        rw [hzero] at hreports
        cases hpending : s.query with
        | none => rfl
        | some q =>
          rw [hpending] at hreports
          cases hreports
    have hplanner :
        (if s.planner.window = .contending ∧ (s.queue.waiting.any fun m => m.body.isTaken) = true then
            { s.planner with window := .deferred, takenOwed := false }
          else s.planner) =
        if s.planner.window = .contending ∧ (∃ m ∈ s.queue.waiting, m.body.isTaken = true) then
            { s.planner with window := .deferred, takenOwed := false }
          else s.planner := if_congr (by rw [List.any_eq_true]) rfl rfl
    rw [← hplanner, ← hquery]
    rfl
  case dropped =>
    obtain ⟨hdest, haccepts⟩ := h
    rcases hnot with hunusable | hother
    · obtain ⟨hzero, htop, -⟩ := (read.acceptsSource_iff source).1 haccepts
      exact hunusable.elim hzero htop
    · exact hdest.elim hother.1 hother.2
  case accepted =>
    obtain ⟨hzero, htop⟩ := not_or.1 husable
    have haccepts : read.acceptsSource source = true := (read.acceptsSource_iff source).2 ⟨hzero, htop, hsource⟩
    have hhands : read.receive (wholeFrame cls priority source dest payload) =
        read.handOn (wholeFrame cls priority source dest payload) :=
      (receive_other (s := read) hsource).trans (if_pos ⟨hdest, haccepts⟩)
    have hheard {heard : Instr} {effect : State → State} (hlayout : HeardNotice source cls payload effect)
        (hexecHeard : ∃ u, exec heard witnessed = .next u ∧ u = { effect witnessed with out := u.out }) :
        taken heard := by
      obtain ⟨u, hu, huout⟩ := hexecHeard
      obtain ⟨hhears, hcls⟩ := hlayout.hears read priority dest
      obtain ⟨t, ht, htout⟩ := hkept (hhands.trans (handOn_notice hcls))
      rw [hhears, ← hlayout.setWitness, hwitnessed] at htout
      exact ⟨u, hu, t, ht, htout.trans (by rw [huout])⟩
    refine ⟨fun b0 b1 b2 b3 hclass hbytes => ?_, fun tag thickness mass exit phantom hclass hbytes => ?_,
      fun b0 b1 b2 b3 hclass hbytes => ?_, fun b0 b1 b2 b3 hclass hbytes => ?_, fun hclass hbytes => ?_, fun hplain => ?_,
      fun hclass hown hmode => ?_⟩
    · subst hclass hbytes
      exact hheard (.jam b0 b1 b2 b3) (guarded_outcome _ _)
    · obtain ⟨hthickness, hmass, hexit⟩ := passageByte_fields thickness mass exit phantom
      have hlayout := HeardNotice.passage (source := source) (tag.extractLsb' 8 8) (tag.extractLsb' 0 8)
        (thickness ++ mass ++ BitVec.ofBool (decide (exit = .divert)) ++ BitVec.ofBool phantom)
      rw [hthickness, hmass, hexit, word16_split] at hlayout
      subst hclass hbytes
      exact hheard hlayout (guarded_outcome _ _)
    · subst hclass hbytes
      exact hheard (.taken b0 b1 b2 b3) (guarded_outcome _ _)
    · subst hclass hbytes
      exact hheard (.claim b0 b1 b2 b3) (guarded_outcome _ _)
    · subst hclass hbytes
      exact hheard .withdraw (guarded_outcome _ _)
    · by_cases hown : cls = 5 ∨ cls = 7
      · have hall : dest = 0 := by
          by_contra hother
          simp only [hother, and_false, or_false] at hplain
          omega
        exact hkept (hhands.trans ((if_pos hown).trans ((if_pos hall).trans hwitnessed)))
      · refine hkept (hhands.trans ((handOn_notice (not_or.1 hown)).trans ?_))
        simp only [hown, false_and, or_false] at hplain
        rw [hearNotice_none (by omega), hwitnessed]
    · exact hkept (hhands.trans ((if_pos hclass).trans ((if_neg hown).trans (if_pos (s.silenced_iff.2 hmode)))))

/-! ### Addressed frames -/

section Addressed

variable {priority : Nat} {source : Addr} {payload : List Byte} {s : State}

/-- An addressed frame reaches its block, and the witness slot follows the answer (R107, R108). -/
theorem receive_addressed (hheard : s.silenced = false) (husable : usableAddr s.straps.addr = true)
    (haccepts : s.acceptsSource source = true) :
    s.receive (wholeFrame 5 priority source s.straps.addr payload) = (answerQueryFrame source payload s).witnessed ∧
      s.receive (wholeFrame 7 priority source s.straps.addr payload) = (answerConfigFrame payload s).witnessed := by
  have hother : source ≠ s.straps.addr := ((s.acceptsSource_iff source).1 haccepts).2.2
  have hown : s.straps.addr ≠ 0 := fun h => ((usableAddr_iff _).1 husable).1 (congrArg BitVec.toNat h)
  have hspeaks : ¬s.silenced = true := by rw [hheard]; exact Bool.false_ne_true
  constructor
  · refine (receive_other hother).trans ((if_pos ⟨.inr rfl, haccepts⟩).trans ?_)
    exact (if_pos (.inl rfl)).trans ((if_neg hown).trans ((if_neg hspeaks).trans (if_pos rfl)))
  · refine (receive_other hother).trans ((if_pos ⟨.inr rfl, haccepts⟩).trans ?_)
    exact (if_pos (.inr rfl)).trans ((if_neg hown).trans ((if_neg hspeaks).trans (if_neg (show ¬7 = 5 by decide))))

end Addressed

theorem reportHead_fields (kind : QueryKind) (arg : BitVec 5) :
    queryKindOf ((reportHead kind arg.toNat).toNat / 32) = some kind ∧
      (reportHead kind arg.toNat).extractLsb' 0 5 = arg := by
  have harg := arg.isLt
  have hcode : kind.code < 8 := by cases kind <;> decide
  have hhead : (reportHead kind arg.toNat).toNat = kind.code * 32 + arg.toNat := by
    rw [reportHead, BitVec.toNat_ofNat]
    omega
  constructor
  · rw [hhead, show (kind.code * 32 + arg.toNat) / 32 = kind.code by omega]
    cases kind <;> rfl
  · refine BitVec.eq_of_toNat_eq ?_
    rw [BitVec.extractLsb'_toNat, hhead, Nat.shiftRight_zero]
    omega

theorem answerQueryFrame_refused {payload : List Byte}
    (h : payload.length ≠ 1 ∨ ∃ b, payload = [b] ∧ b.toNat / 32 = 0) (source : Addr) (s : State) :
    answerQueryFrame source payload s = refuse s := by
  rcases payload with _ | ⟨b, _ | ⟨_, _⟩⟩
  · rfl
  · rcases h with h | ⟨b', hb, hzero⟩
    · exact absurd rfl h
    · obtain rfl : b = b' := by simpa using hb
      rw [answerQueryFrame, hzero]
      rfl
  · rfl

theorem answerConfigFrame_refused {payload : List Byte}
    (h : payload = [] ∨
      ∃ code rest, payload = code :: rest ∧
        (code.toNat, payload.length) ∉
          ([(1, 8), (2, 7), (3, 7), (4, 12), (5, 5), (6, 3), (7, 10), (8, 8), (9, 2), (10, 3), (11, 1)] :
            List (Nat × Nat))) (s : State) : answerConfigFrame payload s = refuse s := by
  rcases h with rfl | ⟨code, rest, rfl, hnot⟩
  · rfl
  · rcases answerConfigFrame_cons code rest s with ⟨answer, hitem, -⟩ | hrefused
    · generalize code.toNat = item at hitem hnot
      refine absurd ?_ hnot
      cases hitem <;> simp
    · exact hrefused

/-- Settles O47. -/
theorem addressedFramesReachTheirBlock : Obligations.AddressedFramesReachTheirBlock := by
  unfold Obligations.AddressedFramesReachTheirBlock
  intro priority source payload s hpriority hpayload hnode hmode hactivity husable haccepts frame read
  have hheard : read.silenced = false := silenced_eq_false hmode
  have hrunning : read.running = true := s.running_iff.2 hnode
  obtain ⟨hqueryFrame, hconfigFrame⟩ :=
    receive_addressed (priority := priority) (payload := payload) (s := read) hheard husable haccepts
  have hquery : exec (frame 5) s = done (answerQueryFrame source payload read).witnessed :=
    hqueryFrame ▸ exec_frameReceived_whole hnode hactivity (by decide) hpriority hpayload
  have hconfig : exec (frame 7) s = done (answerConfigFrame payload read).witnessed :=
    hconfigFrame ▸ exec_frameReceived_whole hnode hactivity (by decide) hpriority hpayload
  have hitem {answer : State → Answer} (hanswer : answerConfigFrame payload read = answer read) :
      exec (frame 7) s = configCommand answer read := by
    rw [hconfig, hanswer]
    exact (if_pos (by rw [hrunning, hheard]; rfl)).symm
  have hkept {u : Answer} (hanswer : u = refuse read) :
      ∃ t, done u.witnessed = .next t ∧ t = { read with out := t.out } := ⟨read.settle, hanswer ▸ rfl, rfl⟩
  refine ⟨fun kind arg command hbytes hcommand => ?query, fun hnot => hquery ▸ hkept (answerQueryFrame_refused hnot _ _),
    ?lineA, ?lineB, ?lineC, ?factors, ?upstream, ?input, ?slot, ?slotB, ?clear, ?label, ?commit,
    fun hnot => hconfig ▸ hkept (answerConfigFrame_refused hnot _)⟩
  case query =>
    obtain ⟨hkind, harg⟩ := reportHead_fields kind arg
    have hcommandOf : exec command read = queryCommand kind source arg read := by
      simp only [List.mem_cons, List.not_mem_nil, or_false, Prod.mk.injEq] at hcommand
      rcases hcommand with ⟨rfl, rfl⟩ | ⟨rfl, rfl⟩ | ⟨rfl, rfl⟩ | ⟨rfl, rfl⟩ | ⟨rfl, rfl⟩ | ⟨rfl, rfl⟩ | ⟨rfl, rfl⟩ <;>
        rfl
    rw [hquery, hcommandOf, hbytes, answerQueryFrame, hkind]
    dsimp only
    rw [harg]
    exact (if_pos ((read.hearsAddressed_iff source).2 ⟨hnode, hmode, haccepts⟩)).symm
  case factors =>
    rintro table f9 f8 f7 f6 f5 f4 f3 f2 f1 f0 rfl
    rw [← word80_eq]
    exact hitem rfl
  case slot =>
    rintro slot kind path l3 l2 l1 l0 weight tach rfl
    rw [← word32_eq]
    exact hitem rfl
  case lineA => rintro k h1 h0 w1 w0 t1 t0 rfl; exact hitem rfl
  case lineB => rintro g thickness mass classSource announceDivert j rfl; exact hitem rfl
  case lineC => rintro t1 t0 b1 b0 h1 h0 rfl; exact hitem rfl
  case upstream => rintro entry inUse address exit rfl; exact hitem rfl
  case input => rintro line fn rfl; exact hitem rfl
  case slotB => rintro slot r1 r0 d1 d0 s1 s0 rfl; exact hitem rfl
  case clear => rintro slot rfl; exact hitem rfl
  case label => rintro high low rfl; exact hitem rfl
  case commit => rintro rfl; exact hitem rfl

end Sys2Proof.Machine
end

section
/-! SUPPORT. The payloads of the reports. -/

namespace Sys2Proof.Machine

open Sys2Proof

/-- A number below 65536 reads back from its two bytes. -/
theorem be16_number {value : Nat} (h : value ≤ 65535) :
    (BitVec.ofNat 8 (value / 256)).toNat * 256 + (BitVec.ofNat 8 value).toNat = value := by
  rw [BitVec.toNat_ofNat, BitVec.toNat_ofNat]
  omega

theorem be16_bytes {value : Nat} (h : value ≤ 65535) :
    (be16 value).map BitVec.toNat = [value / 256, value % 256] := by
  rw [be16, List.map_cons, List.map_cons, List.map_nil, BitVec.toNat_ofNat, BitVec.toNat_ofNat,
    Nat.mod_eq_of_lt (by omega)]

theorem be24_number {value : Nat} (h : value ≤ 16777215) :
    (BitVec.ofNat 8 (value / 65536)).toNat * 65536 + (BitVec.ofNat 8 (value / 256)).toNat * 256 +
      (BitVec.ofNat 8 value).toNat = value := by
  rw [BitVec.toNat_ofNat, BitVec.toNat_ofNat, BitVec.toNat_ofNat]
  omega

theorem byte_toNat {value : Nat} (h : value ≤ 255) : (BitVec.ofNat 8 value).toNat = value := by
  rw [BitVec.toNat_ofNat]
  omega

/-- Settles O48. -/
theorem reportsFollowTheirLayouts : Obligations.ReportsFollowTheirLayouts := by
  unfold Obligations.ReportsFollowTheirLayouts
  intro arg s hlaw head number
  have hwidth := (widthLaw_iff s).1 hlaw
  refine ⟨⟨_, _, _, _, ?identity, be16_number (Nat.le_of_lt_succ s.account.label.isLt), be16_number hwidth.commissionCount⟩,
    fun hnode htracker => ?first, fun hnode htracker => ?second, fun harg => ?counts, fun hnode hpresent hwear => ?record,
    fun hnot => if_neg ?norecord, fun hempty => if_pos hempty, ?order, fun hopen => ?list, ?commission,
    fun hfault => ?sectionInfo⟩
  case identity =>
    rw [reportBytes, identityBytes, BitVec.ofNat_toNat]
    rfl
  case first =>
    obtain ⟨-, -, -, -, -, ⟨hdeparted, hmissing, hphantom, -, -⟩, -⟩ := htracker
    refine ⟨_, ?_, rfl⟩
    rw [reportBytes, countsBytes, if_pos rfl, List.map_append, List.map_append, List.map_append,
      be16_bytes hdeparted, be16_bytes hmissing, be16_bytes hphantom]
    rfl
  case second =>
    obtain ⟨-, -, -, -, -, ⟨-, -, -, huntagged, hjams⟩, -⟩ := htracker
    rw [reportBytes, countsBytes, if_neg (by decide), if_pos rfl, List.map_append, List.map_append, List.map_append,
      be16_bytes huntagged, be16_bytes hjams, be16_bytes hwidth.dropped]
    rfl
  case counts =>
    have hne (n : Nat) (hn : n < 2) : arg ≠ BitVec.ofNat 5 n := fun h => by
      rw [h, BitVec.toNat_ofNat] at harg
      omega
    exact (if_neg (hne 0 (by decide))).trans (if_neg (hne 1 (by decide)))
  case record =>
    have hshown : (s.operating && (s.cfg.slot arg.toNat).present) = true := by
      rw [s.operating_iff.2 hnode, hpresent]
      rfl
    obtain ⟨⟨hslip, -⟩, -, hhours⟩ := hwidth.comps.getD arg.toNat
    exact ⟨_, _, _, _, _, _, if_pos hshown, be16_number (hwear.trans (by decide)), be16_number hhours,
      be16_number (hslip.trans (by decide))⟩
  case norecord =>
    rw [Bool.and_eq_true, s.operating_iff]
    rintro ⟨hnode, hpresent⟩
    exact hnot.elim (· hnode) fun habsent => Bool.false_ne_true (habsent.symm.trans hpresent)
  case order =>
    intro p hp hstatus hwear o
    obtain ⟨-, -, hissue, hclose⟩ := hwidth.orders.at arg.toNat
    have hcode : o.status ≠ .empty ∧ BitVec.ofNat 8 o.status.code = p.2 := by
      rw [show o.status = p.1 from hstatus]
      simp only [List.mem_cons, List.not_mem_nil, or_false] at hp
      rcases hp with rfl | rfl | rfl <;> exact ⟨by decide, rfl⟩
    refine ⟨_, _, _, _, _, _, (if_neg hcode.1).trans ?_, be16_number (Nat.le_of_lt_succ hwear),
      be16_number (Nat.le_of_lt_succ hissue), be16_number (Nat.le_of_lt_succ hclose)⟩
    rw [← hcode.2]
    rfl
  case list =>
    rw [reportBytes, listBytes, List.map_cons, List.map_cons, List.map_cons, List.map_cons, List.map_nil,
      byte_toNat (hwidth.orders.head.le.trans (by decide)), byte_toNat (hwidth.orders.tail.le.trans (by decide)),
      byte_toNat (hopen.trans (by decide))]
    rfl
  case commission =>
    rw [reportBytes, commissionBytes, List.map_cons, List.map_cons, List.map_cons, List.map_nil,
      byte_toNat hwidth.stagedItems, byte_toNat (hwidth.lastCommit.trans (by decide))]
    rfl
  case sectionInfo =>
    refine ⟨_, _, _, _, _, _, _, _, rfl, ?_, ?_, rfl, rfl, rfl, be24_number hwidth.lines.runHours⟩
    · by_cases hnode : s.node = .operating
      · rw [if_pos (s.operating_iff.2 hnode), if_pos hnode]
        cases s.tracker.sectionState <;> rfl
      · rw [if_neg (mt s.operating_iff.1 hnode), if_neg hnode]
        rfl
    · cases s.planner.window <;> cases s.planner.standing <;> rfl

end Sys2Proof.Machine
end

section
/-! SUPPORT. The CONFIG items: their codes, and what they stage. -/

namespace Sys2Proof.Machine

open Sys2Proof

/-! ### Codes -/

theorem yesNoOf_of_le {code : Nat} (h : code ≤ 1) : yesNoOf code = some (decide (code = 1)) := by
  interval_cases code <;> rfl

theorem yesNoOf_of_lt {code : Nat} (h : 1 < code) : yesNoOf code = none := by
  obtain ⟨n, rfl⟩ := Nat.exists_eq_add_of_le' (show 2 ≤ code from h)
  rfl

theorem exitOf_of_le {code : Nat} (h : code ≤ 1) :
    exitOf code = some (if code = 0 then .straight else .divert) := by
  interval_cases code <;> rfl

theorem exitOf_of_lt {code : Nat} (h : 1 < code) : exitOf code = none := by
  obtain ⟨n, rfl⟩ := Nat.exists_eq_add_of_le' (show 2 ≤ code from h)
  rfl

theorem classSourceOf_of_lt {code : Nat} (h : 2 < code) : classSourceOf code = none := by
  obtain ⟨n, rfl⟩ := Nat.exists_eq_add_of_le' (show 3 ≤ code from h)
  rfl

theorem lineFnOf_of_lt {code : Nat} (h : 15 < code) : lineFnOf code = none := by
  obtain ⟨n, rfl⟩ := Nat.exists_eq_add_of_le' (show 16 ≤ code from h)
  rfl

theorem kindOf_of_lt {code : Nat} (h : 2 < code) : kindOf code = none := by
  obtain ⟨n, rfl⟩ := Nat.exists_eq_add_of_le' (show 3 ≤ code from h)
  rfl

theorem pathOf_of_lt {code : Nat} (h : 2 < code) : pathOf code = none := by
  obtain ⟨n, rfl⟩ := Nat.exists_eq_add_of_le' (show 3 ≤ code from h)
  rfl

theorem byte_ne_toNat {tach : Byte} : tach ≠ 0xFF ↔ tach.toNat ≠ 0xFF := not_congr BitVec.toNat_inj.symm

theorem unpackFactors_eq (packed : BitVec 80) :
    unpackFactors packed = (List.range 8).map fun i => (packed.extractLsb' (70 - 10 * i) 10).toNat := by
  refine List.map_congr_left (g := fun i => (packed.extractLsb' (70 - 10 * (7 - i)) 10).toNat) fun i hi => ?_
  have hi : i ≤ 7 := by
    simp only [List.mem_cons, List.not_mem_nil, or_false] at hi
    omega
  rw [BitVec.extractLsb'_toNat, Nat.shiftRight_eq_div_pow, show 70 - 10 * (7 - i) = 10 * i by omega, Nat.pow_mul]

/-! ### Items staged and refused -/

theorem State.takesConfig_iff (s : State) : s.takesConfig = true ↔ s.node = .commissioning ∧ s.account.writes = [] := by
  rw [State.takesConfig, Bool.and_eq_true, beq_iff_eq, List.isEmpty_iff]

section Items

variable {s : State}

theorem configCommand_heard (hnode : s.node ≠ .starting) (hmode : s.bus.mode ≠ .silenced) (answer : State → Answer) :
    configCommand answer s = done (answer s).witnessed :=
  if_pos (by rw [s.running_iff.2 hnode, silenced_eq_false hmode]; rfl)

theorem stageItem_some (htakes : s.takesConfig = true) {item : Configuration → Option Configuration}
    {new : Configuration} (hitem : item s.account.staging = some new) :
    stageItem item s = { taken := true, state := s.stage new } := by
  rw [stageItem, if_pos htakes, hitem]

theorem stageItem_none {item : Configuration → Option Configuration} (hitem : item s.account.staging = none) :
    stageItem item s = refuse s := by
  rw [stageItem, hitem]
  exact ite_self _

theorem stageItem_untaken (htakes : ¬s.takesConfig = true) (item : Configuration → Option Configuration) :
    stageItem item s = refuse s := if_neg htakes

/-- A refused item changes nothing, and the slot stays recessive (R108, R178). -/
theorem configCommand_refused (hnode : s.node ≠ .starting) (hmode : s.bus.mode ≠ .silenced) {answer : State → Answer}
    (hanswer : answer s = refuse s) :
    ∃ t, configCommand answer s = .next t ∧ t = { s with bus := { s.bus with witness := false }, out := t.out } :=
  ⟨(s.setWitness false).settle, by rw [configCommand_heard hnode hmode, hanswer]; rfl, rfl⟩

/-- An item taken is staged, one item more counted, and the slot driven (R108, R178). -/
theorem configCommand_staged (hnode : s.node = .commissioning) (hmode : s.bus.mode ≠ .silenced)
    (hwrites : s.account.writes = []) {item : Configuration → Option Configuration} {new : Configuration}
    (hitem : item s.account.staging = some new) :
    ∃ t, configCommand (stageItem item) s = .next t ∧
      t =
        { s with
          account := { s.account with staging := new, stagedItems := min 255 (s.account.stagedItems + 1) }
          bus := { s.bus with witness := true }
          out := t.out } := by
  refine ⟨((s.stage new).setWitness true).settle, ?_, rfl⟩
  rw [configCommand_heard (by rw [hnode]; exact (nomatch ·)) hmode,
    stageItem_some (s.takesConfig_iff.2 ⟨hnode, hwrites⟩) hitem]
  rfl

end Items

/-- Settles O49. -/
theorem lineItemsAreStagedClamped : Obligations.LineItemsAreStagedClamped := by
  unfold Obligations.LineItemsAreStagedClamped
  intro s hnode hmode hwrites old staged refused
  have hstarted : s.node ≠ .starting := by rw [hnode]; exact (nomatch ·)
  have hstaged {item : Configuration → Option Configuration} {new : Configuration} (hitem : item old = some new) :=
    configCommand_staged hnode hmode hwrites hitem
  have hrefused {item : Configuration → Option Configuration} (hitem : item old = none) :=
    configCommand_refused hstarted hmode (stageItem_none hitem)
  refine ⟨fun k hz tWatch tHold => hstaged rfl, ?lineB, ?lineBRefused, fun tTransit tBlock tHand => hstaged rfl,
    ?factors, ?upstream, ?input⟩
  case lineB =>
    intro g thickness mass source announce j from' hsource hannounce
    refine hstaged ?_
    unfold itemLineB
    rw [yesNoOf_of_le hannounce]
    simp only [List.mem_cons, List.not_mem_nil, or_false, Prod.mk.injEq] at hsource
    rcases hsource with ⟨hcode, rfl⟩ | ⟨hcode, rfl⟩ | ⟨hcode, rfl⟩ <;> rw [hcode] <;> rfl
  case lineBRefused =>
    intro g thickness mass source announce j hcode
    refine hrefused ?_
    unfold itemLineB
    rcases hcode with h | h
    · rw [classSourceOf_of_lt h]
    · rw [yesNoOf_of_lt h]
      cases classSourceOf source.toNat <;> rfl
  case factors =>
    intro packed
    refine ⟨hstaged ?_, hstaged ?_, fun table htable => hrefused ?_⟩
    · exact unpackFactors_eq packed ▸ rfl
    · exact unpackFactors_eq packed ▸ rfl
    · obtain ⟨n, hn⟩ := Nat.exists_eq_add_of_le' (show 2 ≤ table.toNat from htable)
      rw [itemFactors, hn]
      rfl
  case upstream =>
    intro entry inUse address exit
    refine ⟨fun hentry hused hexit => hstaged ?_, fun hcode => hrefused ?_⟩
    · unfold itemUpstream
      rw [yesNoOf_of_le hentry, yesNoOf_of_le hused, exitOf_of_le hexit]
      rfl
    · unfold itemUpstream
      rcases hcode with h | h | h
      · rw [yesNoOf_of_lt h]
      · rw [yesNoOf_of_lt h]
        cases yesNoOf entry.toNat <;> rfl
      · rw [exitOf_of_lt h]
        cases yesNoOf entry.toNat with
        | none => rfl
        | some b => cases yesNoOf inUse.toNat <;> rfl
  case input =>
    intro line function
    refine ⟨fun p hp hfunction hline => hstaged ?_, fun hcode => hrefused ?_⟩
    · have hfn : lineFnOf function.toNat = some p.2 := by
        rw [hfunction]
        simp only [List.mem_cons, List.not_mem_nil, or_false] at hp
        rcases hp with rfl | rfl | rfl | rfl | rfl | rfl | rfl | rfl | rfl | rfl | rfl | rfl | rfl | rfl | rfl | rfl <;> rfl
      unfold itemInput
      rw [hfn]
      exact if_pos hline
    · unfold itemInput
      rcases hcode with h | h
      · cases lineFnOf function.toNat with
        | none => rfl
        | some fn => exact if_neg (Nat.not_lt.2 h)
      · rw [lineFnOf_of_lt h]

/-- Settles O50. -/
theorem slotItemsAreStagedClamped : Obligations.SlotItemsAreStagedClamped := by
  unfold Obligations.SlotItemsAreStagedClamped
  intro s hnode hmode hwrites old staged refused
  have hstarted : s.node ≠ .starting := by rw [hnode]; exact (nomatch ·)
  have hstaged {item : Configuration → Option Configuration} {new : Configuration} (hitem : item old = some new) :=
    configCommand_staged hnode hmode hwrites hitem
  have hrefused {item : Configuration → Option Configuration} (hitem : item old = none) :=
    configCommand_refused hstarted hmode (stageItem_none hitem)
  refine ⟨?slot, ?slotRefused, fun n ratio distance start => ⟨fun hn => hstaged (if_pos hn), fun hn =>
    hrefused (if_neg (Nat.not_lt.2 hn))⟩, fun n => ⟨fun hn => hstaged (if_pos hn), fun hn =>
    hrefused (if_neg (Nat.not_lt.2 hn))⟩⟩
  case slot =>
    intro n life weight tach kind hkind path hpath hn htach
    have hkindOf : kindOf kind.1.toNat = some kind.2 := by
      simp only [List.mem_cons, List.not_mem_nil, or_false] at hkind
      rcases hkind with rfl | rfl | rfl <;> rfl
    have hpathOf : pathOf path.1.toNat = some path.2 := by
      simp only [List.mem_cons, List.not_mem_nil, or_false] at hpath
      rcases hpath with rfl | rfl | rfl <;> rfl
    have htachOf : tachOf tach.toNat = some (if tach = 0xFF then none else some tach.toNat) := by
      rcases htach with h | rfl
      · rw [if_neg (byte_ne_toNat.2 (by omega))]
        exact if_pos h
      · rfl
    have hline : (if kind.2 = .belt then none else if tach = 0xFF then none else some tach.toNat) =
        if kind.2 = .belt ∨ tach = 0xFF then none else some tach.toNat := by
      by_cases hbelt : kind.2 = .belt
      · rw [if_pos hbelt, if_pos (.inl hbelt)]
      · rw [if_neg hbelt]
        exact if_congr (or_iff_right hbelt).symm rfl rfl
    refine hstaged ?_
    unfold itemSlot
    rw [hkindOf, hpathOf, htachOf, ← hline]
    exact if_pos hn
  case slotRefused =>
    intro n kind path life weight tach hcode
    refine hrefused ?_
    unfold itemSlot
    rcases hcode with h | h | h | ⟨htop, hnone⟩
    · split
      next => exact if_neg (Nat.not_lt.2 h)
      next => rfl
    · rw [kindOf_of_lt h]
    · rw [pathOf_of_lt h]
      cases kindOf kind.toNat <;> rfl
    · have htachOf : tachOf tach.toNat = none :=
        (if_neg (Nat.not_lt.2 htop)).trans (if_neg (byte_ne_toNat.1 hnone))
      rw [htachOf]
      cases kindOf kind.toNat with
      | none => rfl
      | some kd => cases pathOf path.toNat <;> rfl

/-! ### Items refused everywhere -/

/-- Settles O51. -/
theorem labelsAreTakenOnce : Obligations.LabelsAreTakenOnce := by
  unfold Obligations.LabelsAreTakenOnce
  intro value s hnode item
  have hitem {command : Instr} (h : item command) :
      ∃ answer, exec command s = configCommand answer s ∧ (¬s.takesConfig = true → answer s = refuse s) := by
    rcases h with h | ⟨_, _, _, _, rfl⟩ | ⟨_, _, _, _, _, _, rfl⟩ | ⟨_, _, _, rfl⟩ | ⟨_, _, rfl⟩ | ⟨_, _, _, _, rfl⟩ |
      ⟨_, _, rfl⟩ | ⟨_, _, _, _, _, _, rfl⟩ | ⟨_, _, _, _, rfl⟩ | ⟨_, rfl⟩
    · simp only [List.mem_cons, List.not_mem_nil, or_false] at h
      rcases h with rfl | rfl
      · exact ⟨answerCommit, rfl, fun htakes => if_neg htakes⟩
      · refine ⟨answerLabel value, rfl, fun htakes => ?_⟩
        unfold answerLabel
        split
        · rfl
        · rw [stageItem_untaken htakes]
          rfl
    all_goals exact ⟨stageItem _, rfl, fun htakes => stageItem_untaken htakes _⟩
  refine ⟨fun hmode hcommissioning hwrites hnever hfirst => ?taken, fun hmode hagain => ?again,
    fun hmode hnot command hcommand => ?elsewhere, fun hmode command hcommand => ?silenced⟩
  case taken =>
    have hanswer : answerLabel value s =
        { taken := true
          state :=
            { s.stage { s.account.staging with label := value, labelCommitted := true } with
              account :=
                { (s.stage { s.account.staging with label := value, labelCommitted := true }).account with
                  labelTaken := true } } } := by
      unfold answerLabel
      rw [hnever, hfirst, stageItem_some (item := fun c => some { c with label := value, labelCommitted := true })
        (s.takesConfig_iff.2 ⟨hcommissioning, hwrites⟩) rfl]
      rfl
    refine ⟨_, (configCommand_heard hnode hmode _).trans (congrArg (fun a : Answer => done a.witnessed) hanswer), rfl⟩
  case again =>
    refine configCommand_refused hnode hmode (if_pos ?_)
    rwa [Bool.or_eq_true]
  case elsewhere =>
    obtain ⟨answer, hexec, hanswer⟩ := hitem hcommand
    rw [hexec]
    refine configCommand_refused hnode hmode (hanswer ?_)
    rw [s.takesConfig_iff]
    rintro ⟨hcommissioning, hwrites⟩
    exact hnot.elim (· hcommissioning) (· hwrites)
  case silenced =>
    obtain ⟨answer, hexec, -⟩ := hitem hcommand
    rw [hexec]
    refine if_neg ?_
    rw [s.silenced_iff.2 hmode, Bool.not_true, Bool.and_false]
    exact Bool.false_ne_true

end Sys2Proof.Machine
end

section
/-! SUPPORT. What a step does on an empty queue, part by part. -/

namespace Sys2Proof.Machine

open Sys2Proof

theorem step_idle {s : State} (hpending : s.pending = []) : step s = .next s.idle := by
  rw [step, hpending]

/-! ### Filters -/

/-- How long a raw level has stood against the filtered one after a millisecond more (R2). -/
def LevelLine.stood (l : LevelLine) (raw : Bool) (ms : Nat) : Nat := if raw = l.level then 0 else min ms (l.held + 1)

theorem LevelLine.sample_eq (l : LevelLine) (raw : Bool) (ms : Nat) :
    l.sample raw ms = { l with held := l.stood raw ms } := by
  unfold LevelLine.sample LevelLine.stood
  split <;> rfl

theorem LevelLine.follow_eq (l : LevelLine) (raw : Bool) (ms : Nat) :
    l.follow raw ms = if ms ≤ l.stood raw ms then { level := raw, held := 0 } else { l with held := l.stood raw ms } := by
  unfold LevelLine.follow
  rw [LevelLine.sample_eq]
  exact if_congr decide_eq_true_iff rfl rfl

theorem edgeCommand_eq (l : LevelLine) (ms : Nat) (rise fall : Instr) :
    edgeCommand l ms rise fall = if ms ≤ l.held then [if l.level = true then fall else rise] else [] :=
  if_congr decide_eq_true_iff rfl rfl

theorem State.raw_eq (s : State) (fn : LineFn) :
    s.raw fn = (s.cfg.functions.zip s.pins.lines).any fun p => decide (p.1 = fn ∧ p.2 = true) := by
  unfold State.raw
  congr 1
  funext p
  rw [Bool.decide_and, beq_eq_decide, Bool.decide_eq_true]

/-! ### The section clock -/

theorem LineUnit.hourDue_iff (l : LineUnit) :
    l.hourDue = true ↔ l.levels.motorRun.level = true ∧ 3600000 ≤ l.runMs + 1 := by
  rw [LineUnit.hourDue, Bool.and_eq_true, decide_eq_true_eq]

theorem LineUnit.tick_eq (l : LineUnit) (after : Levels) :
    l.tick after =
      { l with
        levels := after
        sampleMs := (l.sampleMs + 1) % 250
        refreshMs := (l.refreshMs + 1) % 30000
        runMs :=
          if l.levels.motorRun.level = true ∧ 3600000 ≤ l.runMs + 1 then 0
          else if l.levels.motorRun.level = true then l.runMs + 1 else l.runMs
        runHours :=
          if l.levels.motorRun.level = true ∧ 3600000 ≤ l.runMs + 1 then min 16777215 (l.runHours + 1)
          else l.runHours } := by
  unfold LineUnit.tick LineUnit.run
  by_cases hhour : l.hourDue = true
  · rw [if_pos hhour, if_pos (l.hourDue_iff.1 hhour), if_pos (l.hourDue_iff.1 hhour)]
    rfl
  · rw [if_neg hhour, if_neg (mt l.hourDue_iff.2 hhour), if_neg (mt l.hourDue_iff.2 hhour)]
    split <;> rfl

/-! ### Ages and timers -/

theorem Tracker.tick_eq (t : Tracker) (levels : Levels) :
    t.tick levels =
      { t with
        inbound := t.inbound.map fun e => { e with age := e.age + 1 }
        pieces := if t.sectionState = .running then t.pieces.map fun p => { p with age := p.age + 1 } else t.pieces
        entryBlocked :=
          if t.sectionState = .running ∧ levels.entryEye.level = true then t.entryBlocked + 1 else t.entryBlocked
        straightBlocked :=
          if t.sectionState = .running ∧ levels.straightEye.level = true then t.straightBlocked + 1
          else t.straightBlocked
        divertBlocked :=
          if t.sectionState = .running ∧ levels.divertEye.level = true then t.divertBlocked + 1 else t.divertBlocked
        clearHold := t.clearHold.map fun ms => min 2000 (ms + 1) } := by
  unfold Tracker.tick
  have hrun : (t.sectionState == .running) = true ↔ t.sectionState = .running := beq_iff_eq
  have hboth (level : Bool) :
      (t.sectionState == .running && level) = true ↔ t.sectionState = .running ∧ level = true := by
    rw [Bool.and_eq_true, hrun]
  dsimp only
  rw [if_congr hrun rfl rfl, if_congr (hboth levels.entryEye.level) rfl rfl,
    if_congr (hboth levels.straightEye.level) rfl rfl, if_congr (hboth levels.divertEye.level) rfl rfl]

/-- The command of a timer that stands at its end, whichever way the comparison is written. -/
theorem ended_eq (timer : Option Nat) (limit : Nat) (command : Instr) :
    (if timer = some limit then [command] else []) = if (timer == some limit) = true then [command] else [] :=
  if_congr beq_iff_eq.symm rfl rfl

theorem turned_eq (count : Nat) (command : Instr) :
    (if count = 0 then [command] else []) = if (count == 0) = true then [command] else [] :=
  if_congr beq_iff_eq.symm rfl rfl

theorem State.transitDue_eq (s : State) :
    s.transitDue =
      (decide (s.tracker.sectionState = .running) &&
        s.tracker.pieces.head?.any fun p => decide (s.cfg.tTransit < p.age)) := by
  unfold State.transitDue
  rw [beq_eq_decide]
  cases s.tracker.pieces <;> rfl

theorem State.blockedDue_eq (s : State) :
    s.blockedDue =
      decide
        (s.tracker.sectionState = .running ∧
          (s.cfg.tBlock < s.tracker.entryBlocked ∨ s.cfg.tBlock < s.tracker.straightBlocked ∨
            s.cfg.tBlock < s.tracker.divertBlocked)) := by
  unfold State.blockedDue
  rw [beq_eq_decide, Bool.decide_and, Bool.decide_or, Bool.decide_or, Bool.or_assoc]

/-- The timed commands due, each by its condition. -/
theorem timersDue_eq (t : State) :
    timersDue t =
      (if (decide (t.tracker.sectionState = .running) &&
            t.tracker.pieces.head?.any fun p => decide (t.cfg.tTransit < p.age)) = true then [.transitJam] else []) ++
        (if decide
            (t.tracker.sectionState = .running ∧
              (t.cfg.tBlock < t.tracker.entryBlocked ∨ t.cfg.tBlock < t.tracker.straightBlocked ∨
                t.cfg.tBlock < t.tracker.divertBlocked)) = true then [.blockedJam] else []) ++
        (if (t.tracker.clearHold == some 2000) = true then [.clearHoldComplete] else []) ++
        ((t.planner.view.filter fun e => decide (100000 ≤ e.age)).map fun e => .claimEntryAgeOut e.address) ++
        (if (t.planner.pendingHold == some 5000) = true then [.pendingHoldExpiry] else []) ++
        (if (t.lines.sampleMs == 0) = true then [.samplePeriodEnd] else []) ++
        (if (t.lines.refreshMs == 0) = true then [.claimRefresh] else []) := by
  unfold timersDue
  rw [State.transitDue_eq, State.blockedDue_eq, ended_eq, ended_eq, turned_eq, turned_eq]

theorem alwaysDue_eq (t : State) :
    alwaysDue t =
      (if 20 ≤ t.resetLine.held then [if t.resetLine.level = true then .resetFall else .resetRise t.pins.straps]
        else []) ++
        (if (t.bus.muteMs == some 1000) = true then [.muteEnd] else []) := by
  unfold alwaysDue
  rw [edgeCommand_eq, ended_eq]

/-! ### Records of a checkpoint -/

theorem State.markedRecords_eq (s : State) :
    s.markedRecords =
      ((List.range 32).filter fun i => (s.comp i).marked).map .component ++
        ((List.range 32).filter fun i => s.orders.marks.getD i false).map .order ++
        (if s.account.nodeMarked = true then [.node] else []) := by
  unfold State.markedRecords RecordName.every
  rw [List.filter_append, List.filter_append, List.filter_map, List.filter_map, List.filter_singleton, cond_eq_ite]
  rfl

/-- Settles O2. -/
theorem emptyQueueTakesWorkOrAMillisecond : Obligations.EmptyQueueTakesWorkOrAMillisecond := by
  unfold Obligations.EmptyQueueTakesWorkOrAMillisecond
  intro s hpending writing raw stood sampled followed edge when reset mute always alwaysDue' running motor old levels
    latch tracker view hold hour sampleMs refreshMs edges timers
  have hstep := step_idle hpending
  have hwriting : (s.operating && !s.account.due.isEmpty) = true ↔ writing := by
    rw [Bool.and_eq_true, s.operating_iff, Bool.not_eq_true', List.isEmpty_eq_false_iff]
  refine ⟨fun name rest hdue hnode => ?writes, fun rest hhanded hnode hdue => ?begins,
    fun work rest hhanded hnot hother => ?takes, fun hnot hhanded hpower => ?rests, fun hhanded hpower hnode => ?outside,
    fun hhanded hpower hnode hdue => ?millisecond⟩
  case writes =>
    have hidle : s.idle = (s.setDue rest).writeRecord name := by
      rw [State.idle, if_pos (hwriting.2 ⟨hnode, by rw [hdue]; exact List.cons_ne_nil _ _⟩), State.writeDue, hdue]
    rw [hstep, hidle]
    cases name <;> rfl
  case begins =>
    have hnot : ¬writing := fun h => h.2 hdue
    have hidle : s.idle = s.beginCheckpoint := by
      rw [State.idle, if_neg (mt hwriting.1 hnot), hhanded]
      exact if_pos (by rw [s.operating_iff.2 hnode]; rfl)
    have htaken : s.handed.erase .checkpoint = rest := by rw [hhanded]; rfl
    rw [hstep, hidle, ← htaken, State.beginCheckpoint, ← State.markedRecords_eq]
    rfl
  case takes =>
    have hidle : s.idle = { s with pending := s.pending ++ [work] } := by
      rw [State.idle, if_neg (mt hwriting.1 hnot), hhanded]
      refine if_neg ?_
      rw [Bool.and_eq_true, s.operating_iff, beq_iff_eq]
      rintro ⟨hnode, hcheckpoint⟩
      exact hother.elim (· hnode) (· hcheckpoint)
    rw [hstep, hidle, hpending]
    rfl
  case rests =>
    rw [hstep, State.idle, if_neg (mt hwriting.1 hnot), hhanded]
    exact congrArg _ (if_neg (by rw [hpower]; exact Bool.false_ne_true))
  all_goals
    have hreset : s.resetLine.sample s.pins.reset Config.slowFilterMs = reset := LevelLine.sample_eq ..
    have halways : s.tickAlways = always := by rw [State.tickAlways, hreset]
    have hdues : alwaysDue s.tickAlways = alwaysDue' := by rw [alwaysDue_eq, halways]
  case outside =>
    have hnot : ¬writing := fun h => hnode h.1
    have hidle : s.idle = { s.tickAlways with pending := s.pending ++ alwaysDue s.tickAlways } := by
      rw [State.idle, if_neg (mt hwriting.1 hnot), hhanded]
      exact (if_pos hpower).trans (if_neg (mt s.operating_iff.1 hnode))
    rw [hstep, hidle, hpending, hdues, halways]
    rfl
  case millisecond =>
    have hnot : ¬writing := fun h => h.2 hdue
    have hidle : s.idle =
        { s.tickAlways.tickOperating with
          pending :=
            s.pending ++ edgesDue s.lines.levels s.filterLines ++ timersDue s.tickAlways.tickOperating ++
              alwaysDue s.tickAlways } := by
      rw [State.idle, if_neg (mt hwriting.1 hnot), hhanded]
      exact (if_pos hpower).trans (if_pos (s.operating_iff.2 hnode))
    have hlevels : s.filterLines = levels := by
      unfold State.filterLines followClasses
      simp only [LevelLine.sample_eq, LevelLine.follow_eq, State.raw_eq]
      rfl
    have hedges : edgesDue s.lines.levels s.filterLines = edges := by
      rw [hlevels]
      unfold edgesDue
      simp only [edgeCommand_eq]
      rfl
    have htracker : s.tracker.tick s.lines.levels = tracker := Tracker.tick_eq ..
    have hmotor : decide motor = s.lines.levels.motorRun.level := Bool.decide_eq_true
    have hafter : s.tickAlways.tickOperating =
        { always with
          lines :=
            { s.lines with
              levels := levels
              sampleMs := sampleMs
              refreshMs := refreshMs
              runMs := if hour then 0 else if motor then s.lines.runMs + 1 else s.lines.runMs
              runHours := if hour then min 16777215 (s.lines.runHours + 1) else s.lines.runHours }
          tracker := tracker
          planner := { s.planner with view := view, pendingHold := hold }
          account := { s.account with nodeMarked := s.account.nodeMarked || decide motor }
          handed := if hour then [.runHourBoundary] else [] } := by
      rw [halways, hmotor]
      change
        { always with
          lines := s.lines.tick s.filterLines
          tracker := s.tracker.tick s.lines.levels
          planner := s.planner.tick
          account := { s.account with nodeMarked := s.account.nodeMarked || s.lines.levels.motorRun.level }
          handed := s.handed ++ (if s.lines.hourDue then [Instr.runHourBoundary] else []) } = _
      rw [LineUnit.tick_eq, hlevels, htracker, hhanded, List.nil_append, if_congr s.lines.hourDue_iff rfl rfl]
      rfl
    have htimers : timersDue s.tickAlways.tickOperating = timers := by
      rw [hafter, timersDue_eq]
    rw [hstep, hidle, hpending, hedges, htimers, hdues, hafter, List.nil_append]

end Sys2Proof.Machine
end

section
/-! SUPPORT. The records that a checkpoint writes, and RESET_FALL. -/

namespace Sys2Proof.Machine

open Sys2Proof

/-! ### Writing records -/

/-- A state after some records have been written as they stood, and what it leaves (R174, R175). -/
structure Written (s : State) (names : List RecordName) (t : State) : Prop where
  frame : t =
    { s with
      comps := t.comps
      orders := { s.orders with marks := t.orders.marks }
      account := { s.account with records := t.account.records, nodeMarked := t.account.nodeMarked } }
  compsLength : t.comps.length = s.comps.length
  comp : ∀ i < s.comps.length,
    t.comp i = if .component i ∈ names then { s.comp i with marked := false } else s.comp i
  marksLength : t.orders.marks.length = s.orders.marks.length
  mark : ∀ i < s.orders.marks.length,
    t.orders.marks.getD i false = if .order i ∈ names then false else s.orders.marks.getD i false
  nodeMarked : t.account.nodeMarked = if .node ∈ names then false else s.account.nodeMarked
  config : t.account.records.config = s.account.records.config
  componentsLength : t.account.records.components.length = s.account.records.components.length
  component : ∀ i < s.account.records.components.length,
    t.account.records.components.getD i .absent =
      if .component i ∈ names then stored Config.componentBytes (s.comp i).dyn
      else s.account.records.components.getD i .absent
  ordersLength : t.account.records.orders.length = s.account.records.orders.length
  order : ∀ i < s.account.records.orders.length,
    t.account.records.orders.getD i .absent =
      if .order i ∈ names then stored Config.orderBytes (s.orders.at i) else s.account.records.orders.getD i .absent
  node : t.account.records.node =
    if .node ∈ names then stored Config.nodeBytes s.nodeRecord else s.account.records.node

theorem Written.refl (s : State) : Written s [] s :=
  ⟨rfl, rfl, fun _ _ => rfl, rfl, fun _ _ => rfl, rfl, rfl, rfl, fun _ _ => rfl, rfl, fun _ _ => rfl, rfl⟩

/-- What a list holds after one of its places has been put. -/
theorem getD_set {α : Type} {l : List α} {i : Nat} (hi : i < l.length) (k : Nat) (value : Nat → α) (d : α) :
    (l.set k (value k)).getD i d = if i = k then value i else l.getD i d := by
  rw [List.getD_eq_getElem _ _ (by rwa [List.length_set]), List.getElem_set, List.getD_eq_getElem _ _ hi]
  by_cases h : k = i
  · rw [if_pos h, if_pos h.symm, h]
  · rw [if_neg h, if_neg (Ne.symm h)]

theorem Written.single (s : State) (name : RecordName) : Written s [name] (s.writeRecord name) := by
  cases name with
  | component k =>
    have hmem (i : Nat) : i = k ↔ RecordName.component i ∈ [.component k] := by simp
    exact ⟨rfl, List.length_set,
      fun i hi => (getD_set hi k (fun i => { s.comp i with marked := false }) .zero).trans (if_congr (hmem i) rfl rfl),
      rfl, fun i _ => (if_neg (by simp)).symm, (if_neg (by simp)).symm, rfl, List.length_set,
      fun i hi => (getD_set hi k (fun i => stored Config.componentBytes (s.comp i).dyn) .absent).trans
        (if_congr (hmem i) rfl rfl),
      rfl, fun i _ => (if_neg (by simp)).symm, (if_neg (by simp)).symm⟩
  | order k =>
    have hmem (i : Nat) : i = k ↔ RecordName.order i ∈ [.order k] := by simp
    exact ⟨rfl, rfl, fun i _ => (if_neg (by simp)).symm, List.length_set,
      fun i hi => (getD_set hi k (fun _ => false) false).trans (if_congr (hmem i) rfl rfl),
      (if_neg (by simp)).symm, rfl, rfl, fun i _ => (if_neg (by simp)).symm, List.length_set,
      fun i hi => (getD_set hi k (fun i => stored Config.orderBytes (s.orders.at i)) .absent).trans
        (if_congr (hmem i) rfl rfl), (if_neg (by simp)).symm⟩
  | node =>
    exact ⟨rfl, rfl, fun i _ => (if_neg (by simp)).symm, rfl, fun i _ => (if_neg (by simp)).symm,
      (if_pos (by simp)).symm, rfl, rfl, fun i _ => (if_neg (by simp)).symm, rfl, fun i _ => (if_neg (by simp)).symm,
      (if_pos (by simp)).symm⟩

theorem ite_mem_append {α : Type} (name : RecordName) (first rest : List RecordName) (a b : α) :
    (if name ∈ rest then a else if name ∈ first then a else b) = if name ∈ first ++ rest then a else b := by
  by_cases hrest : name ∈ rest
  · rw [if_pos hrest, if_pos (List.mem_append_right _ hrest)]
  · rw [if_neg hrest]
    exact if_congr ((List.mem_append.trans (or_iff_left hrest)).symm) rfl rfl

theorem Written.trans {s u t : State} {first rest : List RecordName} (hfirst : Written s first u)
    (hrest : Written u rest t) : Written s (first ++ rest) t := by
  have hdyn (i : Nat) : (u.comp i).dyn = (s.comp i).dyn := by
    by_cases hi : i < s.comps.length
    · rw [hfirst.comp i hi]
      split <;> rfl
    · rw [State.comp, State.comp, List.getD_eq_default _ _ (Nat.not_lt.1 hi),
        List.getD_eq_default _ _ (hfirst.compsLength ▸ Nat.not_lt.1 hi)]
  have hat (i : Nat) : u.orders.at i = s.orders.at i := by rw [hfirst.frame]; rfl
  have hnode : u.nodeRecord = s.nodeRecord := by rw [hfirst.frame]; rfl
  exact {
    frame := by
      rw [hrest.frame, hfirst.frame]
    compsLength := hrest.compsLength.trans hfirst.compsLength
    comp := fun i hi => by
      rw [hrest.comp i (hfirst.compsLength ▸ hi), hfirst.comp i hi, ← ite_mem_append]
      split
      · split <;> rfl
      · rfl
    marksLength := hrest.marksLength.trans hfirst.marksLength
    mark := fun i hi => by
      rw [hrest.mark i (hfirst.marksLength ▸ hi), hfirst.mark i hi, ite_mem_append]
    nodeMarked := by rw [hrest.nodeMarked, hfirst.nodeMarked, ite_mem_append]
    config := hrest.config.trans hfirst.config
    componentsLength := hrest.componentsLength.trans hfirst.componentsLength
    component := fun i hi => by
      rw [hrest.component i (hfirst.componentsLength ▸ hi), hfirst.component i hi, hdyn, ite_mem_append]
    ordersLength := hrest.ordersLength.trans hfirst.ordersLength
    order := fun i hi => by
      rw [hrest.order i (hfirst.ordersLength ▸ hi), hfirst.order i hi, hat, ite_mem_append]
    node := by rw [hrest.node, hfirst.node, hnode, ite_mem_append] }

theorem State.writeRecords_written (s : State) (names : List RecordName) : Written s names (s.writeRecords names) := by
  induction names generalizing s with
  | nil => exact .refl s
  | cons name names ih => exact (Written.single s name).trans (ih (s.writeRecord name))

/-! ### Checkpoints -/

theorem State.mem_markedRecords_component (s : State) (i : Nat) :
    .component i ∈ s.markedRecords ↔ i < 32 ∧ (s.comp i).marked = true := by
  rw [State.markedRecords_eq]
  split <;> simp

theorem State.mem_markedRecords_order (s : State) (i : Nat) :
    .order i ∈ s.markedRecords ↔ i < 32 ∧ s.orders.marks.getD i false = true := by
  rw [State.markedRecords_eq]
  split <;> simp

theorem State.mem_markedRecords_node (s : State) : .node ∈ s.markedRecords ↔ s.account.nodeMarked = true := by
  rw [State.markedRecords_eq]
  split <;> simp [*]

/-- Writing every marked record is a checkpoint (R175). -/
theorem State.checkpointAll_checkpointOf {s : State} (hwidth : Widths s) :
    CheckpointOf s s.checkpointAll.account.records := by
  have hwritten := s.writeRecords_written s.markedRecords
  have hcomponents : s.account.records.components.length = 32 := hwidth.records.1.1
  have horders : s.account.records.orders.length = 32 := hwidth.records.2.1.1
  refine ⟨hwritten.config, fun i hi => ?_, fun i hi => ?_, hwritten.node.trans (if_congr s.mem_markedRecords_node rfl rfl)⟩
  · refine (hwritten.component i (hcomponents ▸ hi)).trans (if_congr ?_ rfl rfl)
    exact (s.mem_markedRecords_component i).trans (and_iff_right hi)
  · refine (hwritten.order i (horders ▸ hi)).trans (if_congr ?_ rfl rfl)
    exact (s.mem_markedRecords_order i).trans (and_iff_right hi)

/-- After every marked record is written no mark is left, and nothing else has changed (R175). -/
theorem State.checkpointAll_eq {s : State} (hwidth : Widths s) :
    s.checkpointAll =
      { s with
        comps := s.comps.map fun c => { c with marked := false }
        orders := { s.orders with marks := List.replicate 32 false }
        account := { s.account with records := s.checkpointAll.account.records, nodeMarked := false } } := by
  have hwritten := s.writeRecords_written s.markedRecords
  have hcomps : s.checkpointAll.comps = s.comps.map fun c => { c with marked := false } := by
    refine List.ext_getElem (hwritten.compsLength.trans (List.length_map _).symm) fun i hi hi' => ?_
    have his : i < s.comps.length := hwritten.compsLength ▸ hi
    have hcomp := hwritten.comp i his
    rw [List.getElem_map, ← List.getD_eq_getElem _ .zero hi, ← List.getD_eq_getElem _ .zero his]
    refine hcomp.trans ?_
    split
    next => rfl
    next hnot =>
      have hclear : (s.comp i).marked = false :=
        Bool.eq_false_iff.2 fun h => hnot ((s.mem_markedRecords_component i).2 ⟨his.trans_eq hwidth.comps.1, h⟩)
      exact (congrArg (fun marked => { s.comp i with marked := marked }) hclear).symm ▸ rfl
  have hmarks : s.checkpointAll.orders.marks = List.replicate 32 false := by
    refine List.ext_getElem (hwritten.marksLength.trans (hwidth.orders.marks.trans List.length_replicate.symm))
      fun i hi hi' => ?_
    have his : i < s.orders.marks.length := hwritten.marksLength ▸ hi
    have hmark := hwritten.mark i his
    rw [List.getElem_replicate, ← List.getD_eq_getElem _ false hi]
    refine hmark.trans ?_
    split
    next => rfl
    next hnot =>
      exact Bool.eq_false_iff.2 fun h => hnot ((s.mem_markedRecords_order i).2 ⟨his.trans_eq hwidth.orders.marks, h⟩)
  have hnode : s.checkpointAll.account.nodeMarked = false := by
    refine hwritten.nodeMarked.trans ?_
    split
    next => rfl
    next hnot => exact Bool.eq_false_iff.2 fun h => hnot (s.mem_markedRecords_node.2 h)
  rw [← hcomps, ← hmarks, ← hnode]
  exact hwritten.frame

/-- Settles O9. -/
theorem checkpointStoresEveryMarkedRecord : Obligations.CheckpointStoresEveryMarkedRecord := by
  unfold Obligations.CheckpointStoresEveryMarkedRecord
  intro s hnode hlaw
  have hwidth : Widths ((s.take .checkpoint).setDue []) := (widthLaw_iff _).1 hlaw
  refine ⟨_, if_pos (s.operating_iff.2 hnode), State.checkpointAll_checkpointOf hwidth, ?_⟩
  rw [State.settle_eq, State.checkpointAll_eq hwidth]
  rfl

/-- Settles O5. -/
theorem resetFallWritesAndClears : Obligations.ResetFallWritesAndClears := by
  unfold Obligations.ResetFallWritesAndClears
  intro s hlaw hconfig
  have hwidth := (widthLaw_iff s).1 hlaw
  refine ⟨fun hoff => if_neg (by rw [hoff]; exact Bool.false_ne_true), fun hpower => ?_⟩
  have hfinished (hnode : s.node = .operating) : s.finishWrites = s := by
    have hnone : s.account.writes = [] := by
      by_contra hsome
      exact nomatch hnode.symm.trans (((configLaw_iff s).1 hconfig).commissions hsome)
    rw [State.finishWrites, hnone, Store.writeAll, ← hnone]
  refine ⟨_, if_pos hpower, fun hnode => ?_, fun hnode => ?_, ?_⟩
  · change CheckpointOf s (if s.operating = true then s.finishWrites.checkpointAll else s.finishWrites).account.records
    rw [if_pos (s.operating_iff.2 hnode), hfinished hnode]
    exact State.checkpointAll_checkpointOf hwidth
  · change (if s.operating = true then s.finishWrites.checkpointAll else s.finishWrites).account.records = _
    rw [if_neg (mt s.operating_iff.1 hnode)]
    rfl
  · have hkept : ∃ comps orders account,
        (if s.operating = true then s.finishWrites.checkpointAll else s.finishWrites) =
          { s with comps := comps, orders := orders, account := account } := by
      split
      next => exact ⟨_, _, _, (s.finishWrites.writeRecords_written s.finishWrites.markedRecords).frame⟩
      next => exact ⟨_, _, _, rfl⟩
    obtain ⟨comps, orders, account, hkept⟩ := hkept
    rw [hkept, State.settle_cleared, ← strapMode_eq, ← hpower]
    rfl

end Sys2Proof.Machine
end

section
/-! SUPPORT. COMMIT: the slots it changes, the records it writes, and the state it leaves. -/

namespace Sys2Proof.Machine

open Sys2Proof

/-! ### Changed slots -/

theorem slotChanged_iff (old new : SlotConfig) :
    slotChanged old new = true ↔
      old.present ≠ new.present ∨
        (old.present = true ∧ (old.kind ≠ new.kind ∨ old.path ≠ new.path ∨ old.life ≠ new.life)) := by
  simp only [slotChanged, Bool.or_eq_true, Bool.and_eq_true, bne_iff_ne, or_assoc]

theorem commitWritesDyn_iff (old new : SlotConfig) :
    commitWritesDyn old new = true ↔ slotChanged old new = true ∨ (old.present = true ∧ old.tach ≠ new.tach) := by
  rw [commitWritesDyn, Bool.or_eq_true, Bool.and_eq_true, bne_iff_ne]

theorem anySlotChanged_iff {olds news : List SlotConfig} (hlength : olds.length = news.length) :
    anySlotChanged olds news = true ↔
      ∃ i < olds.length, slotChanged (olds.getD i .blank) (news.getD i .blank) = true := by
  induction olds generalizing news with
  | nil => simp [anySlotChanged]
  | cons old olds ih =>
    cases news with
    | nil => cases hlength
    | cons new news =>
      rw [anySlotChanged, Bool.or_eq_true, ih (Nat.succ.inj hlength)]
      constructor
      · rintro (h | ⟨i, hi, h⟩)
        · exact ⟨0, Nat.succ_pos _, h⟩
        · exact ⟨i + 1, Nat.succ_lt_succ hi, h⟩
      · rintro ⟨_ | i, hi, h⟩
        · exact .inl h
        · exact .inr ⟨i, Nat.lt_of_succ_lt_succ hi, h⟩

/-- The record of a slot after a COMMIT, as the Account Store holds it. -/
theorem commitComps_getD {olds news : List SlotConfig} {comps : List Component} (holds : olds.length = comps.length)
    (hnews : news.length = comps.length) {i : Nat} (hi : i < comps.length) :
    (commitComps olds news comps).getD i .zero =
      { comps.getD i .zero with
        dyn := commitDyn (olds.getD i .blank) (news.getD i .blank) (comps.getD i .zero).dyn
        marked :=
          (comps.getD i .zero).marked && !commitWritesDyn (olds.getD i .blank) (news.getD i .blank) } := by
  induction comps generalizing olds news i with
  | nil => cases hi
  | cons c comps ih =>
    obtain ⟨old, olds, rfl⟩ := List.exists_cons_of_length_eq_add_one holds
    obtain ⟨new, news, rfl⟩ := List.exists_cons_of_length_eq_add_one hnews
    cases i with
    | zero => rfl
    | succ i => exact ih (Nat.succ.inj holds) (Nat.succ.inj hnews) (Nat.lt_of_succ_lt_succ hi)

/-! ### The writes, one after the other -/

theorem Store.writeAll_append (st : Store) (first rest : List StoreWrite) :
    st.writeAll (first ++ rest) = (st.writeAll first).writeAll rest := by
  induction first generalizing st with
  | nil => rfl
  | cons w first ih => exact ih (st.write w)

theorem Store.writeAll_slots_frame (st : Store) (k : Nat) (olds news : List SlotConfig) (comps : List Component) :
    st.writeAll (commitSlotWrites k olds news comps) =
        { st with components := (st.writeAll (commitSlotWrites k olds news comps)).components } ∧
      (st.writeAll (commitSlotWrites k olds news comps)).components.length = st.components.length := by
  fun_induction commitSlotWrites k olds news comps generalizing st with
  | case1 k old olds news_ news c comps hwrites ih =>
    obtain ⟨hframe, hlength⟩ := ih (st.write _)
    refine ⟨?_, hlength.trans List.length_set⟩
    rw [Store.writeAll, hframe]
    rfl
  | case2 k old olds news_ news c comps hnot ih => exact ih st
  | case3 => exact ⟨rfl, rfl⟩

/-- The component record of a slot after the second step of the writes (R181). -/
theorem Store.writeAll_slots_component {st : Store} {k : Nat} {olds news : List SlotConfig} {comps : List Component}
    (holds : olds.length = comps.length) (hnews : news.length = comps.length) {i : Nat}
    (hi : i < st.components.length) :
    (st.writeAll (commitSlotWrites k olds news comps)).components.getD i .absent =
      if k ≤ i ∧ i < k + comps.length ∧
          commitWritesDyn (olds.getD (i - k) .blank) (news.getD (i - k) .blank) = true then
        stored Config.componentBytes
          (commitDyn (olds.getD (i - k) .blank) (news.getD (i - k) .blank) (comps.getD (i - k) .zero).dyn)
      else st.components.getD i .absent := by
  induction comps generalizing st k olds news with
  | nil =>
    obtain rfl : olds = [] := List.length_eq_zero_iff.1 holds
    rw [if_neg (by rw [List.length_nil]; omega)]
    rfl
  | cons c comps ih =>
    obtain ⟨old, olds, rfl⟩ := List.exists_cons_of_length_eq_add_one holds
    obtain ⟨new, news, rfl⟩ := List.exists_cons_of_length_eq_add_one hnews
    have hput := getD_set hi k (fun _ => stored Config.componentBytes (commitDyn old new c.dyn)) .absent
    have hrest {u : Store} (hu : i < u.components.length) := ih (st := u) (k := k + 1) (Nat.succ.inj holds)
      (Nat.succ.inj hnews) hu
    have hwritten : i < (st.write (.component k (commitDyn old new c.dyn))).components.length :=
      hi.trans_eq List.length_set.symm
    rw [commitSlotWrites, apply_ite st.writeAll]
    rcases lt_trichotomy i k with hlow | rfl | hhigh
    · rw [if_neg (show ¬(k ≤ i ∧ _) from fun h => Nat.not_le.2 hlow h.1)]
      split
      · refine (hrest hwritten).trans ((if_neg fun h => ?_).trans (hput.trans (if_neg hlow.ne)))
        omega
      · refine (hrest hi).trans (if_neg fun h => ?_)
        omega
    · rw [Nat.sub_self]
      split
      next hwrites =>
        rw [if_pos ⟨le_rfl, by rw [List.length_cons]; omega, hwrites⟩]
        refine (hrest hwritten).trans ((if_neg fun h => ?_).trans (hput.trans (if_pos rfl)))
        omega
      next hnot =>
        rw [if_neg fun h => hnot h.2.2]
        refine (hrest hi).trans (if_neg fun h => ?_)
        omega
    · rw [show i - k = i - (k + 1) + 1 by omega, List.getD_cons_succ, List.getD_cons_succ, List.getD_cons_succ]
      have hcond (p : Prop) : k + 1 ≤ i ∧ i < k + 1 + comps.length ∧ p ↔ k ≤ i ∧ i < k + (c :: comps).length ∧ p := by
        rw [List.length_cons]
        constructor
        · rintro ⟨h1, h2, h⟩
          exact ⟨by omega, by omega, h⟩
        · rintro ⟨h1, h2, h⟩
          exact ⟨by omega, by omega, h⟩
      split
      · exact (hrest hwritten).trans (if_congr (hcond _) rfl (hput.trans (if_neg hhigh.ne')))
      · exact (hrest hi).trans (if_congr (hcond _) rfl rfl)

theorem Store.writeAll_orders {st : Store} {n : Nat} (hn : n ≤ st.orders.length) :
    st.writeAll ((List.range n).map fun i => .order i .empty) =
      { st with orders := List.replicate n (stored Config.orderBytes .empty) ++ st.orders.drop n } := by
  induction n with
  | zero => rfl
  | succ n ih =>
    rw [List.range_succ, List.map_append, Store.writeAll_append, ih (Nat.le_of_succ_le hn)]
    have hset : (List.replicate n (stored Config.orderBytes .empty) ++ st.orders.drop n).set n
          (stored Config.orderBytes .empty) =
        List.replicate (n + 1) (stored Config.orderBytes .empty) ++ st.orders.drop (n + 1) := by
      rw [List.set_append_right _ _ (by rw [List.length_replicate]), List.length_replicate, Nat.sub_self,
        List.drop_eq_getElem_cons hn, List.set_cons_zero, List.replicate_succ', List.append_assoc]
      rfl
    rw [← hset]
    rfl

theorem Store.writeAll_emptyOrders {st : Store} (horders : st.orders.length = 32) :
    st.writeAll emptyOrderWrites = { st with orders := List.replicate 32 (stored Config.orderBytes .empty) } := by
  refine (Store.writeAll_orders horders.ge).trans ?_
  rw [List.drop_eq_nil_of_le horders.le, List.append_nil]

/-! ### The state after a COMMIT -/

theorem Configuration.InRange.slots_length {c : Configuration} (hrange : c.InRange) : c.slots.length = 32 := by
  obtain ⟨-, -, -, -, -, -, -, -, -, -, -, -, -, hlength, -⟩ := hrange
  exact hlength

section Commit

variable {s : State}

/-- The store after the writes of a COMMIT (R181). -/
theorem Store.writeAll_commitWrites (horders : s.account.records.orders.length = 32) :
    s.account.records.writeAll s.commitWrites =
      { config := stored Config.configurationBytes s.account.staging
        components :=
          ((s.account.records.write (.config s.account.staging)).writeAll
            (commitSlotWrites 0 s.cfg.slots s.account.staging.slots s.comps)).components
        orders :=
          if anySlotChanged s.cfg.slots s.account.staging.slots = true then
            List.replicate 32 (stored Config.orderBytes .empty)
          else s.account.records.orders
        node := stored Config.nodeBytes s.committed.nodeRecord } := by
  rw [State.commitWrites, Store.writeAll_append, Store.writeAll_append, Store.writeAll_append]
  obtain ⟨hframe, -⟩ := (s.account.records.write (.config s.account.staging)).writeAll_slots_frame 0 s.cfg.slots
    s.account.staging.slots s.comps
  rw [Store.writeAll, Store.writeAll, Store.writeAll, Store.writeAll]
  generalize (s.account.records.write (.config s.account.staging)).writeAll
    (commitSlotWrites 0 s.cfg.slots s.account.staging.slots s.comps) = u at hframe ⊢
  have hlength : u.orders.length = 32 := by
    rw [hframe]
    exact horders
  split
  next =>
    rw [Store.writeAll_emptyOrders hlength, hframe]
    rfl
  next =>
    rw [hframe]
    rfl

theorem commitDyn_changed {old new : SlotConfig} (h : slotChanged old new = true) (d : DynRecord) :
    commitDyn old new d = DynRecord.zero := if_pos h

theorem commitDyn_retached {old new : SlotConfig} (hsame : ¬slotChanged old new = true) (hpresent : old.present = true)
    (htach : old.tach ≠ new.tach) (d : DynRecord) : commitDyn old new d = { d with slip := 0 } := by
  rw [commitDyn, if_neg hsame, if_pos]
  rw [hpresent]
  exact bne_iff_ne.2 htach

theorem commitDyn_kept {old new : SlotConfig} (h : ¬commitWritesDyn old new = true) (d : DynRecord) :
    commitDyn old new d = d := by
  rw [commitWritesDyn, Bool.or_eq_true, not_or] at h
  rw [commitDyn, if_neg h.1, if_neg h.2]

end Commit

/-- Settles O52. -/
theorem commitWritesTheStagedConfiguration : Obligations.CommitWritesTheStagedConfiguration := by
  unfold Obligations.CommitWritesTheStagedConfiguration
  refine ⟨fun s hnode hmode hwrites hconfig hlaw => ?commit, fun s hnode => ⟨_, if_pos hnode, rfl⟩⟩
  intro old new changed
  have hwidth := (widthLaw_iff s).1 hlaw
  have hranges := (configLaw_iff s).1 hconfig
  have hcomps : s.comps.length = 32 := hwidth.comps.1
  have hold : old.slots.length = s.comps.length := hranges.cfg.slots_length.trans hcomps.symm
  have hnew : new.slots.length = s.comps.length := hranges.staging.slots_length.trans hcomps.symm
  have hcomponents : s.account.records.components.length = 32 := hwidth.records.1.1
  have horders : s.account.records.orders.length = 32 := hwidth.records.2.1.1
  have hstarted : s.node ≠ .starting := by rw [hnode]; exact (nomatch ·)
  have htakes := s.takesConfig_iff.2 ⟨hnode, hwrites⟩
  have hchanged (i : Nat) : slotChanged (old.slot i) (new.slot i) = true ↔ changed i := slotChanged_iff _ _
  have hany : anySlotChanged old.slots new.slots = true ↔ ∃ i < 32, changed i := by
    rw [anySlotChanged_iff (hold.trans hnew.symm), hold, hcomps]
    exact exists_congr fun i => and_congr_right fun _ => hchanged i
  refine ⟨fun hfails => ?fails, fun hpasses => ?passes⟩
  case fails =>
    have hanswer : answerCommit s = { taken := false, state := s.recordCommit (commitResult new) } := by
      rw [answerCommit, if_pos htakes, if_neg hfails]
    exact ⟨_, (configCommand_heard hstarted hmode _).trans (congrArg (fun a : Answer => done a.witnessed) hanswer), rfl⟩
  case passes =>
    have hanswer : answerCommit s =
        { taken := true
          state := { s.committed with account := { s.committed.account with writes := s.commitWrites } } } := by
      rw [answerCommit, if_pos htakes, if_pos hpasses]
    have hstore := Store.writeAll_commitWrites (s := s) horders
    have hcomponent (i : Nat) (hi : i < 32) :
        (s.account.records.writeAll s.commitWrites).components.getD i .absent =
          if commitWritesDyn (old.slot i) (new.slot i) = true then
            stored Config.componentBytes (commitDyn (old.slot i) (new.slot i) (s.comp i).dyn)
          else s.account.records.components.getD i .absent := by
      rw [hstore]
      refine (Store.writeAll_slots_component (st := s.account.records.write (.config new)) (k := 0) hold hnew
        (hi.trans_eq hcomponents.symm)).trans (if_congr ?_ rfl rfl)
      rw [Nat.zero_add, hcomps, and_iff_right (Nat.zero_le i), and_iff_right hi]
      rfl
    have hcomp (i : Nat) (hi : i < 32) := commitComps_getD hold hnew (hi.trans_eq hcomps.symm)
    have hretached {i : Nat} (hsame : ¬changed i) (hpresent : (old.slot i).present = true)
        (htach : (old.slot i).tach ≠ (new.slot i).tach) :
        commitWritesDyn (old.slot i) (new.slot i) = true ∧
          ∀ d, commitDyn (old.slot i) (new.slot i) d = { d with slip := 0 } :=
      ⟨(commitWritesDyn_iff _ _).2 (.inr ⟨hpresent, htach⟩),
        commitDyn_retached (mt (hchanged i).1 hsame) hpresent htach⟩
    have hzeroed {i : Nat} (h : changed i) :
        commitWritesDyn (old.slot i) (new.slot i) = true ∧
          ∀ d, commitDyn (old.slot i) (new.slot i) d = DynRecord.zero :=
      ⟨(commitWritesDyn_iff _ _).2 (.inl ((hchanged i).2 h)), commitDyn_changed ((hchanged i).2 h)⟩
    have hkept {i : Nat} (hsame : ¬changed i)
        (h : (old.slot i).present = false ∨ (old.slot i).tach = (new.slot i).tach) :
        ¬commitWritesDyn (old.slot i) (new.slot i) = true := by
      rw [commitWritesDyn_iff, hchanged]
      rintro (hchange | ⟨hpresent, htach⟩)
      · exact hsame hchange
      · exact h.elim (fun habsent => Bool.false_ne_true (habsent.symm.trans hpresent)) htach
    have hcleared {o n : SlotConfig} (h : commitWritesDyn o n = true) (marked : Bool) :
        (marked && !commitWritesDyn o n) = false := by
      rw [h, Bool.not_true, Bool.and_false]
    have hlisted : (s.account.listEmptied || anySlotChanged old.slots new.slots) = true ↔
        (∃ i < 32, changed i) ∨ s.account.listEmptied = true := by
      rw [Bool.or_eq_true, hany, or_comm]
    refine ⟨_, _, (configCommand_heard hstarted hmode _).trans (congrArg (fun a : Answer => done a.witnessed) hanswer),
      if_pos hnode, rfl, rfl, rfl, rfl, rfl, rfl, hnode, rfl, rfl, congrArg Store.config hstore, fun i hi => ?component,
      fun hsome => ?emptied, fun hnone => ?orders, s.committed.nodeRecord, congrArg Store.node hstore, rfl, rfl, rfl, rfl,
      rfl, rfl, fun hgone => ?cleared, fun hlist hnone => ?held, hlisted, fun i hi => ?comp, commitComps_length _ _ _,
      rfl, ?frame⟩
    case component =>
      refine ⟨fun h => ?_, fun hsame hpresent htach => ?_, fun hsame h => ?_⟩
      · exact (hcomponent i hi).trans ((if_pos (hzeroed h).1).trans (by rw [(hzeroed h).2]))
      · obtain ⟨hw, hd⟩ := hretached hsame hpresent htach
        exact (hcomponent i hi).trans ((if_pos hw).trans (by rw [hd]))
      · exact (hcomponent i hi).trans (if_neg (hkept hsame h))
    case emptied => exact (congrArg Store.orders hstore).trans (if_pos (hany.2 hsome))
    case orders =>
      refine (congrArg Store.orders hstore).trans (if_neg fun h => ?_)
      obtain ⟨i, hi, hchange⟩ := hany.1 h
      exact hnone i hi hchange
    case cleared => exact ⟨if_pos (hlisted.2 hgone), if_pos (hlisted.2 hgone)⟩
    case held =>
      have hnot : ¬(s.account.listEmptied || anySlotChanged old.slots new.slots) = true := by
        rw [hlisted, hlist]
        rintro (⟨i, hi, hchange⟩ | h)
        · exact hnone i hi hchange
        · cases h
      exact ⟨if_neg hnot, if_neg hnot⟩
    case comp =>
      refine ⟨fun h => ?_, fun hsame hpresent htach => ?_, fun hsame h => ?_, ?_⟩
      · exact ⟨(congrArg (·.dyn) (hcomp i hi)).trans ((hzeroed h).2 _),
          (congrArg (·.marked) (hcomp i hi)).trans (hcleared (hzeroed h).1 _)⟩
      · obtain ⟨hw, hd⟩ := hretached hsame hpresent htach
        exact ⟨(congrArg (·.dyn) (hcomp i hi)).trans (hd _), (congrArg (·.marked) (hcomp i hi)).trans (hcleared hw _)⟩
      · refine (hcomp i hi).trans ?_
        have hw := Bool.eq_false_iff.2 (hkept hsame h)
        rw [show commitWritesDyn (old.slots.getD i .blank) (new.slots.getD i .blank) = false from hw, Bool.not_false,
          Bool.and_true, show commitDyn (old.slots.getD i .blank) (new.slots.getD i .blank) _ = _ from
            commitDyn_kept (hkept hsame h) _]
        rfl
      · have h := hcomp i hi
        change (commitComps old.slots new.slots s.comps).getD i .zero = _
        exact h.trans (congrArg (fun c : Component => { s.comp i with dyn := c.dyn, marked := c.marked }) h.symm)
    case frame =>
      exact congrArg
        (fun writes => ({ s.committed with
          account :=
            { s.committed.account with
              records := s.account.records.writeAll s.commitWrites, staging := s.account.staging, writes := writes }
          bus := { s.bus with witness := true }
          out := _ } : State))
        hwrites.symm

end Sys2Proof.Machine
end

section
/-! SUPPORT. The start: the records as found, and the state that a start leaves for. -/

namespace Sys2Proof.Machine

open Sys2Proof

/-! ### Records as found -/

section Found

variable {α : Type} {bytes : α → List Byte} {r : Stored α}

theorem Stored.found_of_match {contents : α} {check : BitVec 16} (hr : r = .written contents check)
    (hcheck : check = checkWord (payloadBits (bytes contents))) : r.found bytes = .good contents := by
  rw [hr]
  exact if_pos hcheck

theorem Stored.found_of_mismatch {contents : α} {check : BitVec 16} (hr : r = .written contents check)
    (hcheck : ¬check = checkWord (payloadBits (bytes contents))) : r.found bytes = .bad := by
  rw [hr]
  exact if_neg hcheck

end Found

/-! ### Levels as first sampled -/

theorem rawLevel_eq (fn : LineFn) (functions : List LineFn) (raw : List Bool) :
    rawLevel fn functions raw = (functions.zip raw).any fun p => decide (p.1 = fn ∧ p.2 = true) := by
  induction functions generalizing raw with
  | nil => cases raw <;> rfl
  | cons f functions ih =>
    cases raw with
    | nil => rfl
    | cons level raw =>
      rw [rawLevel, ih, List.zip_cons_cons, List.any_cons, Bool.decide_and, beq_eq_decide, Bool.decide_eq_true]

/-! ### Leaving STARTING -/

/-- The node state that a start leaves for (R176). -/
theorem State.leaveStarting_node (u : State) (levels : BitVec 24) :
    (u.leaveStarting levels).node =
      if u.straps.commission = true then .commissioning
      else if u.cfgGood = true then .operating else .unconfigured := by
  unfold State.leaveStarting
  split
  · rfl
  · split <;> rfl

/-- What leaving STARTING keeps of the state as loaded. -/
theorem State.leaveStarting_frame (u : State) (levels : BitVec 24) :
    ((u.leaveStarting levels).cfg = u.cfg ∧ (u.leaveStarting levels).cfgGood = u.cfgGood) ∧
      ((u.leaveStarting levels).lines.runMs = u.lines.runMs ∧
        (u.leaveStarting levels).lines.runHours = u.lines.runHours ∧
        (u.leaveStarting levels).planner.windowCount = u.planner.windowCount) ∧
      (u.leaveStarting levels).account =
        { u.account with staging := if u.straps.commission = true then u.cfg else u.account.staging } ∧
      ((u.leaveStarting levels).queue = u.queue ∧ (u.leaveStarting levels).query = u.query ∧
        (u.leaveStarting levels).handed = u.handed ∧ (u.leaveStarting levels).bus = u.bus) ∧
      ((u.leaveStarting levels).power = u.power ∧ (u.leaveStarting levels).resetLine = u.resetLine ∧
        (u.leaveStarting levels).straps = u.straps ∧ (u.leaveStarting levels).choices = u.choices ∧
        (u.leaveStarting levels).pending = u.pending ∧
        (u.leaveStarting levels).pins = { u.pins with lines := (u.leaveStarting levels).pins.lines }) ∧
      (u.leaveStarting levels).orders = u.orders := by
  unfold State.leaveStarting
  by_cases hcommission : u.straps.commission = true
  · simp only [if_pos hcommission]
    exact ⟨⟨rfl, rfl⟩, ⟨rfl, rfl, rfl⟩, rfl, ⟨rfl, rfl, rfl, rfl⟩, ⟨rfl, rfl, rfl, rfl, rfl, rfl⟩, rfl⟩
  · simp only [if_neg hcommission]
    split
    all_goals exact ⟨⟨rfl, rfl⟩, ⟨rfl, rfl, rfl⟩, rfl, ⟨rfl, rfl, rfl, rfl⟩, ⟨rfl, rfl, rfl, rfl, rfl, rfl⟩, rfl⟩

theorem State.leaveStarting_operating {u : State} {levels : BitVec 24}
    (hnode : (u.leaveStarting levels).node = .operating) : u.leaveStarting levels = u.enterOperating levels := by
  rw [State.leaveStarting_node] at hnode
  unfold State.leaveStarting
  split at hnode
  next => cases hnode
  next hcommission =>
    rw [if_neg hcommission]
    split at hnode
    next hgood => exact if_pos hgood
    next => cases hnode

/-- Outside OPERATING the tracker, the forecast and the planner stand as they were loaded. -/
theorem State.leaveStarting_quiet {u : State} {levels : BitVec 24}
    (hnode : (u.leaveStarting levels).node ≠ .operating) :
    (u.leaveStarting levels).tracker = u.tracker ∧ (u.leaveStarting levels).forecast = u.forecast ∧
      (u.leaveStarting levels).pins = u.pins ∧ (u.leaveStarting levels).planner = u.planner ∧
      (u.leaveStarting levels).comps = u.comps := by
  rw [State.leaveStarting_node] at hnode
  unfold State.leaveStarting
  split
  next => exact ⟨rfl, rfl, rfl, rfl, rfl⟩
  next hcommission =>
    rw [if_neg hcommission] at hnode
    split
    next hgood => exact absurd (if_pos hgood) hnode
    next => exact ⟨rfl, rfl, rfl, rfl, rfl⟩

theorem exec_startComplete {s : State} (hpower : s.power = true) (hnode : s.node = .starting)
    (hreset : s.resetLine.level = true) (damage : List StoreDamage) (levels : BitVec 24) :
    exec (.startComplete damage levels) s =
      done
        (s.startWith (s.account.records.damaged damage) (s.account.records.damaged damage).found levels) :=
  if_pos (by rw [hpower, hnode, hreset]; rfl)

/-- Settles O7. -/
theorem startLeavesForTheStateOfTheTable : Obligations.StartLeavesForTheStateOfTheTable := by
  unfold Obligations.StartLeavesForTheStateOfTheTable
  intro damage levels s hpower hnode hreset records configGood node cfg sampled
  have hfound : records.found.config = records.config.found Config.configurationBytes := rfl
  have hfoundNode : records.found.node = records.node.found Config.nodeBytes := rfl
  have hgood : records.found.configGood = configGood := by
    simp only [configGood, FoundStore.configGood, hfound]
    cases hconfig : records.config with
    | absent => rfl
    | written c check =>
      by_cases hcheck : check = checkWord (payloadBits (Config.configurationBytes c))
      · simp only [Stored.found_of_match rfl hcheck, decide_eq_true hcheck]
      · simp only [Stored.found_of_mismatch rfl hcheck, decide_eq_false hcheck]
  have hloaded : records.found.loadNode = node := by
    simp only [node, configGood, FoundStore.loadNode, hfound, hfoundNode]
    cases hnode : records.node with
    | absent => rfl
    | written n check =>
      by_cases hcheck : check = checkWord (payloadBits (Config.nodeBytes n))
      · simp only [Stored.found_of_match rfl hcheck, if_pos hcheck]
      · simp only [Stored.found_of_mismatch rfl hcheck, if_neg hcheck]
        cases hconfig : records.config with
        | absent => rfl
        | written c check =>
          by_cases hcheck : check = checkWord (payloadBits (Config.configurationBytes c))
          · simp only [Stored.found_of_match rfl hcheck, decide_eq_true hcheck]
          · simp only [Stored.found_of_mismatch rfl hcheck, decide_eq_false hcheck]
  have hcfg : records.found.loadConfig = cfg := by
    simp only [cfg, configGood, FoundStore.loadConfig, hloaded, hfound]
    cases hconfig : records.config with
    | absent => rfl
    | written c check =>
      by_cases hcheck : check = checkWord (payloadBits (Config.configurationBytes c))
      · simp only [Stored.found_of_match rfl hcheck, decide_eq_true hcheck]
      · simp only [Stored.found_of_mismatch rfl hcheck, decide_eq_false hcheck]
  obtain ⟨⟨hcfgKept, hgoodKept⟩, ⟨hms, hhours, hcount⟩, haccount, ⟨hqueue, hquery, hhanded, hbus⟩,
    ⟨hpowerKept, hresetKept, hstraps, hchoices, hpending, hpins⟩, -⟩ :=
    (s.cleared.load records records.found).leaveStarting_frame levels
  refine ⟨_, exec_startComplete hpower hnode hreset damage levels,
    ((s.cleared.load records records.found).leaveStarting_node levels).trans (hgood ▸ rfl),
    hcfgKept.trans hcfg, hgoodKept.trans hgood, ⟨hms.trans (hloaded ▸ rfl), hhours.trans (hloaded ▸ rfl),
    hcount.trans (hloaded ▸ rfl)⟩, haccount.trans ?account, ?undamaged, ⟨hqueue, hquery, hhanded, hbus.trans ?bus⟩,
    ⟨hpowerKept.trans hpower, hresetKept, hstraps, hchoices, hpending, hpins⟩, fun hother => ?quiet,
    fun hoperating => ?operating⟩
  case account =>
    rw [← hloaded, ← hcfg]
    rfl
  case undamaged =>
    rintro rfl
    have hrecords := congrArg (fun account => account.records) haccount
    exact hrecords
  case bus =>
    rw [← strapMode_eq]
    rfl
  case quiet =>
    obtain ⟨htracker, hforecast, hpinsKept, hplanner, -⟩ := State.leaveStarting_quiet hother
    exact ⟨htracker, hforecast, hpinsKept, hplanner.trans (congrArg
      (fun count => { State.reset.planner with windowCount := count }) hcount.symm)⟩
  case operating =>
    have hentered : s.startWith records records.found levels =
        (s.cleared.load records records.found).enterOperating levels := State.leaveStarting_operating hoperating
    rw [hentered]
    intro at'
    refine ⟨rfl, ?_, rfl, rfl, rfl, rfl, rfl, rfl⟩
    simp only [at', ← rawLevel_eq]
    rfl

end Sys2Proof.Machine
end

section
/-! SUPPORT. The records that a start takes up. -/

namespace Sys2Proof.Machine

open Sys2Proof

/-! ### Component records -/

theorem Store.found_component (st : Store) (i : Nat) :
    st.found.components.getD i .absent = (st.components.getD i .absent).found Config.componentBytes :=
  List.getD_map st.components Stored.absent (n := i) (Stored.found Config.componentBytes)

section Load

variable {sl : SlotConfig}

theorem loadComponent_marked_iff (sl : SlotConfig) (r : Found DynRecord) :
    (loadComponent sl r).marked = true ↔ r = .bad := by
  cases r with
  | bad => exact iff_of_true rfl rfl
  | absent => exact iff_of_false Bool.false_ne_true (nomatch ·)
  | good d =>
    refine iff_of_false ?_ (nomatch ·)
    unfold loadComponent
    dsimp only
    split <;> exact Bool.false_ne_true

/-- A record as loaded has a dynamic record and a mark, and nothing derived (notes/assumptions/40.md). -/
theorem loadComponent_eq (sl : SlotConfig) (r : Found DynRecord) :
    loadComponent sl r =
      { Component.zero with dyn := (loadComponent sl r).dyn, marked := (loadComponent sl r).marked } := by
  cases r with
  | bad => rfl
  | absent => rfl
  | good d =>
    unfold loadComponent
    dsimp only
    split <;> rfl

theorem loadComponent_good (hpresent : sl.present = true) (d : DynRecord) : (loadComponent sl (.good d)).dyn = d := by
  unfold loadComponent
  dsimp only
  rw [if_pos hpresent]

theorem lostRecord_eq (life : Nat) :
    lostRecord life =
      { account := life * 2 ^ 28, slip := 0, rate := 0, rateValid := false, hourDelta := 0, serviceCount := 0,
        lost := true } := by
  rw [lostRecord, lifeTicks, ticksPerPassage_eq]
  rfl

theorem loadComponent_bad (hpresent : sl.present = true) : (loadComponent sl .bad).dyn = lostRecord sl.life :=
  if_pos hpresent

end Load

/-- A bad record is loaded at rated life: worn out, with no hours left (R77). -/
theorem Component.derive_lost (cfg : Configuration) {sl : SlotConfig} (hlife : 1 ≤ sl.life) {c : Component}
    (hdyn : c.dyn = lostRecord sl.life) :
    (c.derive cfg sl).wear = 1000 ∧ (c.derive cfg sl).hours = 0 ∧ (c.derive cfg sl).urgency = 255 ∧
      (c.derive cfg sl).band = .overlife := by
  obtain ⟨-, hwear, hhours, hurgency, hband⟩ := c.derive_fields cfg sl
  have haccount : c.dyn.account = lifeTicks sl.life := by rw [hdyn]; rfl
  have hworn : (c.derive cfg sl).wear = 1000 := by
    rw [hwear, haccount, lifeTicks, ticksPerPassage_eq]
    exact wearOf_rated hlife
  refine ⟨hworn, hhours.trans (hoursOf_of_worn haccount.ge), ?_, ?_⟩
  · rw [hurgency, hworn]
    exact urgencyOf_of_rated le_rfl
  · rw [hband, bandOf_eq_overlife_iff, hworn]

/-! ### The order list -/

theorem ringPositions_eq {head : Nat} (hhead : head < 32) (count : Nat) :
    ringPositions head count = (List.range count).map fun k => (head + k) % 32 := by
  induction count generalizing head with
  | zero => rfl
  | succ count ih =>
    rw [ringPositions, ih (nextPosition_lt head), List.range_succ_eq_map, List.map_cons, List.map_map, Nat.add_zero,
      Nat.mod_eq_of_lt hhead]
    congr 1
    refine List.map_congr_left fun k _ => ?_
    simp only [nextPosition, Config.slots, Function.comp_apply]
    omega

theorem ringPositions_nodup {head count : Nat} (hhead : head < 32) (hcount : count ≤ 32) :
    (ringPositions head count).Nodup := by
  rw [ringPositions_eq hhead]
  refine List.Nodup.map_on (fun a ha b hb h => ?_) List.nodup_range
  rw [List.mem_range] at ha hb
  omega

/-- The law of the ring as a load checks it, position by position (R164, R172). -/
theorem ringLawful_iff {slots : List SlotConfig} {ring : List OrderRecord} {head tail : Nat} (hhead : head < 32) :
    ringLawful slots ring head tail = true ↔
      (∀ p < 32, (ring.getD p .empty).status = .opened ↔ (p + 32 - head) % 32 < derivedOpenCount ring head tail) ∧
        (∀ p < 32, (ring.getD p .empty).status = .opened →
          (slots.getD (ring.getD p .empty).slot .blank).present = true) ∧
        ∀ p < 32, ∀ q < 32,
          (ring.getD p .empty).status = .opened → (ring.getD q .empty).status = .opened →
            (ring.getD p .empty).slot = (ring.getD q .empty).slot → p = q := by
  have hcount := derivedOpenCount_le ring head tail
  have hmem {p : Nat} (hp : p < 32) := mem_ringPositions hhead hcount hp
  have hbound {p : Nat} (hp : p ∈ ringPositions head (derivedOpenCount ring head tail)) : p < 32 := by
    rw [ringPositions_eq hhead] at hp
    obtain ⟨k, -, rfl⟩ := List.mem_map.1 hp
    exact Nat.mod_lt _ (by decide)
  have hsame (p : Nat) :
      decide ((ring.getD p .empty).status = .opened) =
          (ringPositions head (derivedOpenCount ring head tail)).contains p ↔
        ((ring.getD p .empty).status = .opened ↔ p ∈ ringPositions head (derivedOpenCount ring head tail)) := by
    rw [Bool.eq_iff_iff, decide_eq_true_eq, List.contains_iff_mem]
  simp only [ringLawful, Bool.and_eq_true, List.all_eq_true, decide_eq_true_eq, beq_iff_eq, List.mem_range, hsame,
    and_assoc]
  constructor
  · rintro ⟨hopens, hpresent, hnodup⟩
    refine ⟨fun p hp => (hopens p hp).trans (hmem hp), fun p hp h => hpresent p ((hopens p hp).1 h),
      fun p hp q hq hp' hq' hsame => ?_⟩
    exact List.inj_on_of_nodup_map hnodup ((hopens p hp).1 hp') ((hopens q hq).1 hq') hsame
  · rintro ⟨hopens, hpresent, hdistinct⟩
    have hopen {p : Nat} (hp : p ∈ ringPositions head (derivedOpenCount ring head tail)) :
        (ring.getD p .empty).status = .opened := (hopens p (hbound hp)).2 ((hmem (hbound hp)).1 hp)
    refine ⟨fun p hp => (hopens p hp).trans (hmem hp).symm, fun p hp => hpresent p (hbound hp) (hopen hp), ?_⟩
    exact List.Nodup.map_on (fun p hp q hq h => hdistinct p (hbound hp) q (hbound hq) (hopen hp) (hopen hq) h)
      (ringPositions_nodup hhead hcount)

/-- A start empties the list for a bad order or node record, and for a broken law (R172, R177). -/
theorem Store.listBroken_iff (st : Store) :
    st.found.listBroken = true ↔
      (st.node.Bad Config.nodeBytes ∨ ∃ r ∈ st.orders, r.Bad Config.orderBytes) ∨
        ¬ringLawful st.found.loadConfig.slots (st.found.orders.map loadOrder) st.found.loadNode.head
            st.found.loadNode.tail = true := by
  have hbad {α : Type} (f : Found α) : f.isBad = true ↔ f = .bad := by
    cases f with
    | bad => exact iff_of_true rfl rfl
    | absent => exact iff_of_false Bool.false_ne_true (nomatch ·)
    | good a => exact iff_of_false Bool.false_ne_true (nomatch ·)
  have hnode : st.found.node.isBad = true ↔ st.node.Bad Config.nodeBytes :=
    (hbad _).trans (Stored.found_bad_iff _ _)
  have horders : st.found.orders.any Found.isBad = true ↔ ∃ r ∈ st.orders, r.Bad Config.orderBytes := by
    rw [List.any_eq_true]
    constructor
    · rintro ⟨f, hf, hfbad⟩
      obtain ⟨r, hr, rfl⟩ := List.mem_map.1 hf
      exact ⟨r, hr, (Stored.found_bad_iff _ _).1 ((hbad _).1 hfbad)⟩
    · rintro ⟨r, hr, hrbad⟩
      exact ⟨_, List.mem_map_of_mem hr, (hbad _).2 ((Stored.found_bad_iff _ _).2 hrbad)⟩
  rw [FoundStore.listBroken, Bool.or_eq_true, Bool.or_eq_true, hnode, horders, Bool.not_eq_true', Bool.not_eq_true]

/-- What is written in an order record, EMPTY where nothing ever was. -/
def Store.writtenOrder (st : Store) (p : Nat) : OrderRecord :=
  match st.orders.getD p .absent with
  | .written o _ => o
  | .absent => .empty

/-- What is written in the node record, all zero where nothing ever was. -/
def Store.writtenNode (st : Store) : NodeRecord :=
  match st.node with
  | .written n _ => n
  | .absent => .zero

/-- Without a bad record the ring is loaded as it is written. -/
theorem Store.loadOrder_written {st : Store} (hgood : ∀ r ∈ st.orders, ¬r.Bad Config.orderBytes) {p : Nat}
    (hp : p < st.orders.length) : (st.found.orders.map loadOrder).getD p .empty = st.writtenOrder p := by
  have hmap : (st.found.orders.map loadOrder).getD p .empty =
      loadOrder ((st.orders.getD p .absent).found Config.orderBytes) := by
    change ((st.orders.map (Stored.found Config.orderBytes)).map loadOrder).getD p .empty = _
    rw [List.map_map]
    exact List.getD_map st.orders Stored.absent (n := p) (loadOrder ∘ Stored.found Config.orderBytes)
  have hmem := hgood _ (List.getElem_mem hp)
  rw [hmap, Store.writtenOrder]
  rw [← List.getD_eq_getElem _ .absent hp] at hmem
  cases hr : st.orders.getD p .absent with
  | absent => rfl
  | written o check =>
    rw [hr] at hmem
    rw [Stored.found_of_match rfl (not_not.1 fun h => hmem ⟨o, check, rfl, h⟩)]
    rfl

theorem Store.loadNode_written {st : Store} (hgood : ¬st.node.Bad Config.nodeBytes) :
    st.found.loadNode = st.writtenNode := by
  have hfound : st.found.node = st.node.found Config.nodeBytes := rfl
  rw [FoundStore.loadNode, Store.writtenNode, hfound]
  cases hr : st.node with
  | absent => rfl
  | written n check =>
    rw [hr] at hgood
    rw [Stored.found_of_match rfl (not_not.1 fun h => hgood ⟨n, check, rfl, h⟩)]

/-! ### The start -/

/-- The record of a slot as a start loads it. -/
def Store.loadedRecord (records : Store) (i : Nat) : Component :=
  loadComponent (records.found.loadConfig.slot i) ((records.components.getD i .absent).found Config.componentBytes)

/-- A state that a start leaves for, by the records it has taken up (R176, R177). -/
structure TakenUp (commission : Bool) (records : Store) (t : State) : Prop where
  cfg : t.cfg = records.found.loadConfig
  node : t.node =
    if commission = true then .commissioning
    else if records.found.configGood = true then .operating else .unconfigured
  orders : t.orders = records.found.loadOrders
  nodeMarked : t.account.nodeMarked = records.found.listBroken
  length : t.comps.length = 32
  operating : t.node = .operating →
    (∀ i < 32, t.comp i =
      { (if (t.cfg.slot i).present = true then (records.loadedRecord i).derive t.cfg (t.cfg.slot i)
          else records.loadedRecord i) with
        openOrder := (t.cfg.slot i).present && t.orders.opensSlot i }) ∧
      t.forecast.pending = nodeForecast t.cfg.slots t.comps
  other : t.node ≠ .operating → ∀ i < 32, t.comp i = records.loadedRecord i

theorem State.startWith_takenUp (s : State) {records : Store} (hfound : records.found.Wide) (levels : BitVec 24) :
    TakenUp s.straps.commission records (s.startWith records records.found levels) := by
  have hslots : records.found.loadConfig.slots.length = 32 := hfound.loadConfig.slots_length
  obtain ⟨⟨hcfg, -⟩, -, haccount, -, -, horders⟩ := (s.cleared.load records records.found).leaveStarting_frame levels
  have hlength : (s.cleared.load records records.found).comps.length = 32 := hfound.loadComponents.1
  have hloaded (i : Nat) (hi : i < 32) : (s.cleared.load records records.found).comp i = records.loadedRecord i := by
    refine (loadComponents_getD _ _ i (hslots ▸ hi) (hfound.components.1 ▸ hi)).trans ?_
    rw [Store.found_component]
    rfl
  have hentered (h : (s.startWith records records.found levels).node = .operating) :
      s.startWith records records.found levels = (s.cleared.load records records.found).enterOperating levels :=
    State.leaveStarting_operating h
  refine ⟨hcfg, (s.cleared.load records records.found).leaveStarting_node levels, horders,
    congrArg (fun account => account.nodeMarked) haccount, ?_, fun h => ?_, fun h i hi => ?_⟩
  · by_cases h : (s.startWith records records.found levels).node = .operating
    · rw [hentered h, State.enterOperating_comps_length, hlength]
      exact (congrArg (min · 32) hslots).trans (min_self 32)
    · obtain ⟨-, -, -, -, hcomps⟩ := State.leaveStarting_quiet h
      exact (congrArg List.length hcomps).trans hlength
  · rw [hentered h]
    refine ⟨fun i hi => ?_, rfl⟩
    rw [State.enterOperating_comp _ levels i (hi.trans_eq hslots.symm) (hi.trans_eq hlength.symm), hloaded i hi]
    rfl
  · obtain ⟨-, -, -, -, hcomps⟩ := State.leaveStarting_quiet h
    exact (congrArg (fun comps => comps.getD i .zero) hcomps).trans (hloaded i hi)

/-- The mark of a record that is given by its fields. -/
theorem Component.marked_of_eq {c : Component} {dyn : DynRecord} {wear hours urgency : Nat} {band : Band}
    {openOrder marked : Bool}
    (hc : c = { dyn := dyn, wear := wear, hours := hours, urgency := urgency, band := band, openOrder := openOrder,
                marked := marked }) :
    c.marked = marked := by
  subst hc
  rfl

theorem Component.derive_marked (cfg : Configuration) (sl : SlotConfig) (c : Component) :
    (c.derive cfg sl).marked = c.marked := Component.marked_of_eq (c := c.derive cfg sl) rfl

/-- What a start takes up of a component record is its dynamic record and its mark. -/
theorem TakenUp.record {commission : Bool} {records : Store} {t : State} (ht : TakenUp commission records t) {i : Nat}
    (hi : i < 32) :
    (t.comp i).dyn = (records.loadedRecord i).dyn ∧ (t.comp i).marked = (records.loadedRecord i).marked := by
  by_cases h : t.node = .operating
  · rw [(ht.operating h).1 i hi]
    dsimp only
    split
    · exact ⟨(Component.derive_fields _ _ _).1, Component.derive_marked _ _ _⟩
    · exact ⟨rfl, rfl⟩
  · rw [ht.other h i hi]
    exact ⟨rfl, rfl⟩

/-- Settles O8. -/
theorem startTakesUpTheStoredRecords : Obligations.StartTakesUpTheStoredRecords := by
  unfold Obligations.StartTakesUpTheStoredRecords
  intro damage levels s hpower hnode hreset hconfig hlaw records loaded ring node badList count lawful
  have hwidth := (widthLaw_iff s).1 hlaw
  have hranges := (configLaw_iff s).1 hconfig
  have hstore : records.InRange := Store.damaged_inRange damage hwidth.records
  have hfound : records.found.Wide := Store.found_wide hstore (Store.damaged_config damage hranges.stored)
  have htaken : TakenUp s.straps.commission records (s.startWith records records.found levels).settle := by
    obtain ⟨hcfg, hnode, horders, hmarked, hlength, hoperating, hother⟩ := s.startWith_takenUp hfound levels
    exact ⟨hcfg, hnode, horders, hmarked, hlength, hoperating, hother⟩
  have hexec := exec_startComplete hpower hnode hreset damage levels
  change exec _ s = .next (s.startWith records records.found levels).settle at hexec
  generalize (s.startWith records records.found levels).settle = t at htaken hexec
  have hconfigFound : records.found.config = records.config.found Config.configurationBytes := rfl
  obtain ⟨-, -, -, hhead, htail, -⟩ := hfound.loadNode
  have hnodeWritten (hfine : ¬badList) : records.found.loadNode = node :=
    Store.loadNode_written fun h => hfine (.inl h)
  have hring (hfine : ¬badList) (p : Nat) (hp : p < 32) :
      (records.found.orders.map loadOrder).getD p .empty = ring p :=
    Store.loadOrder_written (fun r hr h => hfine (.inr ⟨r, hr, h⟩)) (hp.trans_eq hstore.2.1.1.symm)
  have hcount (hfine : ¬badList) :
      derivedOpenCount (records.found.orders.map loadOrder) records.found.loadNode.head records.found.loadNode.tail =
        count := by
    rw [derivedOpenCount, hring hfine _ hhead, hnodeWritten hfine]
  have hbroken : records.found.listBroken = true ↔ badList ∨ ¬lawful t.cfg := by
    refine (Store.listBroken_iff records).trans (or_congr_right' fun hfine => not_congr ?_)
    rw [ringLawful_iff hhead, hcount hfine, hnodeWritten hfine, htaken.cfg]
    refine and_congr (forall₂_congr fun p hp => by rw [hring hfine p hp])
      (and_congr (forall₂_congr fun p hp => by rw [hring hfine p hp]; rfl)
        (forall₂_congr fun p hp => forall₂_congr fun q hq => by rw [hring hfine p hp, hring hfine q hq]))
  refine ⟨t, hexec, fun c hc => ?config, fun hnone => ?noconfig, htaken.length, fun i hi => ?comp,
    fun hbad => ?emptied, fun hfine hlawful => ?kept, fun hoperating => ?operating, fun hother i hi => ?other⟩
  case config =>
    have hgood : records.found.config = .good c := by
      simp only [loaded] at hc
      rw [hconfigFound]
      cases hr : records.config with
      | absent => rw [hr] at hc; cases hc
      | written c' check =>
        rw [hr] at hc
        dsimp only at hc
        split at hc
        next hcheck =>
          cases hc
          exact Stored.found_of_match rfl hcheck
        next => cases hc
    rw [htaken.cfg, htaken.node]
    simp only [FoundStore.loadConfig, FoundStore.configGood, hgood, if_true, and_self]
  case noconfig =>
    have hnogood (c : Configuration) : records.found.config ≠ .good c := by
      simp only [loaded] at hnone
      intro h
      rw [(Stored.found_good_iff _ _ _).1 h] at hnone
      simp at hnone
    have hnot : records.found.configGood = false := by
      unfold FoundStore.configGood
      split
      next c hc => exact absurd hc (hnogood c)
      next => rfl
      next => rfl
    have hslots : t.cfg.slots = Configuration.blank.slots := by
      rw [htaken.cfg, FoundStore.loadConfig]
      split
      next c hc => exact absurd hc (hnogood c)
      next => rfl
      next => rfl
    refine ⟨?_, fun i hi => ?_⟩
    · rw [htaken.node, hnot]
      split <;> exact (nomatch ·)
    · rw [Configuration.slot, hslots]
      exact (by decide : ∀ i < 32, (Configuration.blank.slots.getD i .blank).present = false) i hi
  case comp =>
    intro r
    obtain ⟨hdyn, hmarked⟩ := htaken.record hi
    have hrecord : records.loadedRecord i = loadComponent (t.cfg.slot i) (r.found Config.componentBytes) := by
      rw [htaken.cfg]
      rfl
    rw [hdyn, hmarked, hrecord, loadComponent_marked_iff, Stored.found_bad_iff]
    refine ⟨fun hpresent => ⟨fun d hd => ?_, fun hd => ?_, fun hd => ?_⟩, fun habsent => ?_, Iff.rfl⟩
    · rw [(Stored.found_good_iff _ _ _).2 hd]
      exact loadComponent_good hpresent d
    · rw [hd]
      rfl
    · rw [(Stored.found_bad_iff _ _).2 hd, loadComponent_bad hpresent, lostRecord_eq]
    · rw [loadComponent_absent habsent]
      rfl
  case emptied =>
    have h := hbroken.2 hbad
    rw [htaken.orders, htaken.nodeMarked, FoundStore.loadOrders, if_pos h]
    exact ⟨rfl, h⟩
  case kept =>
    have h : ¬records.found.listBroken = true := fun h => (hbroken.1 h).elim hfine (· hlawful)
    rw [htaken.orders, htaken.nodeMarked, FoundStore.loadOrders, if_neg h]
    refine ⟨?_, Bool.eq_false_iff.2 h⟩
    have hlist : records.found.orders.map loadOrder = (List.range 32).map ring := by
      have hlength : (records.found.orders.map loadOrder).length = 32 := (List.length_map _).trans hfound.orders.1
      refine List.ext_getElem (hlength.trans (by simp)) fun p hp hp' => ?_
      rw [← List.getD_eq_getElem _ .empty hp, hring hfine p (hp.trans_eq hlength), List.getElem_map,
        List.getElem_range]
    rw [hcount hfine, hnodeWritten hfine, hlist]
  case operating =>
    obtain ⟨hcomps, hforecast⟩ := htaken.operating hoperating
    refine ⟨fun i hi hpresent => ?_, (forecastOf_iff _ _ _).2 hforecast, fun i hi => ?_⟩
    · obtain ⟨hdyn, -, hhours, -⟩ := (records.loadedRecord i).derive_fields t.cfg (t.cfg.slot i)
      have hrecord := recordLaw_setFlag (Component.derive_recordLaw hpresent t.cfg (records.loadedRecord i)) hpresent
        ((t.cfg.slot i).present && t.orders.opensSlot i)
      have hcomp := hcomps i hi
      rw [if_pos hpresent] at hcomp
      rw [hcomp]
      refine ⟨hhours.trans (by rw [hdyn]), hrecord, fun hbad => ?_⟩
      have hlife : 1 ≤ (t.cfg.slot i).life :=
        (Configuration.slot_inRange (htaken.cfg ▸ hfound.loadConfig.slots) i).1
      refine Component.derive_lost t.cfg hlife ?_
      rw [Store.loadedRecord, ← htaken.cfg, (Stored.found_bad_iff _ _).2 hbad]
      exact loadComponent_bad hpresent
    · have hlength : t.orders.ring.length = Config.slots := htaken.orders ▸ hfound.loadOrders.ring.1
      rw [hcomps i hi]
      change ((t.cfg.slot i).present && t.orders.opensSlot i) = true ↔ _
      rw [Bool.and_eq_true, OrderList.opensSlot_iff hlength]
  case other =>
    rw [htaken.other hother i hi]
    exact loadComponent_eq _ _

end Sys2Proof.Machine
end
